-- ==== Sys2Proof/Word.lean ====
section
/-! DEFINITION. The words of the part: bytes, nibbles, 32-bit words and Raster Lines. -/

namespace Sys2Proof

/-- One byte of DRAM or of the Pump Link. -/
abbrev Byte := BitVec 8

/-- One nibble of a dialled number or a Station Tag (R182). -/
abbrev Nibble := BitVec 4

/-- One word of the P-port: four bytes (Conventions, Addresses). -/
abbrev Word := BitVec 32

/-- A 16-bit index of the Request Ring or the Notice Ring (R29, R32). -/
abbrev Index := BitVec 16

/-- A Raster Line: 1792 pixels, pixel 0 the most significant bit, 1 black (R58). -/
abbrev Raster := BitVec 1792

/-- The all-white Raster Line. -/
abbrev Raster.white : Raster := 0

/-- A Station Tag as its 10 bytes of 20 nibbles (R182). -/
abbrev Tag := List Byte

end Sys2Proof
end

