-- ==== Sys2Proof/Syntax.lean ====
section
/-! DEFINITION. The commands of the part: one constructor of Instr for each row of
spec/opcode_table.json, with the operands that come from outside the part. -/

namespace Sys2Proof

/-- The installed DRAM size that the strap pins select (R1). -/
inductive DramSize where
  | mib8 | mib16 | mib32
deriving DecidableEq, Repr

/-- The attributes of a host cycle beside its PROGRAM or DATA attribute (Table 0.1).
`stretched` is the sender's choice of timing: whether an access of the cycle that waits on the
M-port is stretched (and completed by CYCLE_GRANTED or ended by HOLD_LIMIT_EXPIRY), or is granted
within the step (DESIGN CHOICE, log 4). -/
structure Attr where
  user : Bool
  locked : Bool
  stretched : Bool
deriving DecidableEq, Repr

/-- Byte enables of a cycle: bit i selects the byte at address + i (DEDUCED, log 10). -/
abbrev Enables := BitVec 4

/-- A line number: LC0 to LC3. -/
abbrev LineNo := Fin 4

/-- One command. The address of a host cycle is the byte address of its word. -/
inductive Instr where
  /-- A PROGRAM-attribute read (R3). -/
  | instructionFetch (addr : BitVec 26) (be : Enables) (a : Attr)
  /-- A plain write, DATA or PROGRAM (R4, R8). -/
  | plainWrite (addr : BitVec 26) (data : Word) (be : Enables) (program : Bool) (a : Attr)
  /-- A plain write that waited takes a freed slot (R8). -/
  | postedSlotTaken
  /-- A plain DATA read (R4, R9). -/
  | plainRead (addr : BitVec 26) (be : Enables) (a : Attr)
  /-- The arbiter grants the oldest posted write (R13). -/
  | postedWriteDrain
  /-- A stretched cycle is granted its access (R15). -/
  | cycleGranted
  /-- The stretch of the waiting cycle reaches the Hold Limit (R15). -/
  | holdLimitExpiry
  /-- The P-port goes idle with the LOCKED marker released (R12). -/
  | lockedSequenceEnd
  /-- A Controller Region read (R11). -/
  | regionRead (addr : BitVec 26) (be : Enables) (a : Attr)
  /-- A Controller Region write (R11, R18). -/
  | regionWrite (addr : BitVec 26) (data : Word) (be : Enables) (program : Bool) (a : Attr)
  /-- A write of START FRESH to the START word (R23). -/
  | startFresh (program : Bool) (a : Attr)
  /-- A write of START KEEP to the START word (R23). -/
  | startKeep (program : Bool) (a : Attr)
  /-- The START work of every block is finished (R25). -/
  | started
  /-- A write to the status flags word (R26). -/
  | statusFlagsWrite (data : Word) (be : Enables) (program : Bool) (a : Attr)
  /-- A write to the interrupt enable word (R35). -/
  | interruptEnableWrite (data : Word) (be : Enables) (program : Bool) (a : Attr)
  /-- A write to the post index word (R29). -/
  | postIndexWrite (data : Word) (be : Enables) (program : Bool) (a : Attr)
  /-- A write to the notice consume index word (R34). -/
  | noticeConsumeIndexWrite (data : Word) (be : Enables) (program : Bool) (a : Attr)
  /-- A write to the clock-set tenths word (R28). -/
  | clockSetTenthsWrite (data : Word) (be : Enables) (program : Bool) (a : Attr)
  /-- A write to the Hold Limit word (R15). -/
  | holdLimitWrite (data : Word) (be : Enables) (program : Bool) (a : Attr)
  /-- A write to the Receive Reserve word (R22, R51). -/
  | receiveReserveWrite (data : Word) (be : Enables) (program : Bool) (a : Attr)
  /-- A write to the Poor Threshold word (R22). -/
  | poorThresholdWrite (data : Word) (be : Enables) (program : Bool) (a : Attr)
  /-- A write to the Auto Print word (R22). -/
  | autoPrintWrite (data : Word) (be : Enables) (program : Bool) (a : Attr)
  /-- A write to the Incoming Reserve word (R22). -/
  | incomingReserveWrite (data : Word) (be : Enables) (program : Bool) (a : Attr)
  /-- A write to the Path Fault cause word (R17). -/
  | pathFaultCauseWrite (data : Word) (be : Enables) (program : Bool) (a : Attr)
  /-- A write to a word of an Aperture Table entry (R5). -/
  | apertureEntryWrite (entry word : Fin 8) (data : Word) (be : Enables) (program : Bool) (a : Attr)
  /-- A write to a word of a Line Config entry (R105). -/
  | lineConfigWrite (line : LineNo) (word : Fin 16) (data : Word) (be : Enables) (program : Bool)
      (a : Attr)
  /-- A write into a COMPOSE Aperture (R88). -/
  | composeWrite (addr : BitVec 26) (data : Word) (be : Enables) (program : Bool) (a : Attr)
  /-- A waiting compose write takes a freed queue slot (R89). -/
  | composeWriteResume
  /-- A DATA read of a COMPOSE Aperture (R88). -/
  | composeRead (addr : BitVec 26) (be : Enables) (a : Attr)
  /-- A DATA read of a view (R96). -/
  | rasterRead (addr : BitVec 26) (be : Enables) (a : Attr)
  /-- A waiting view read completes (R99, R101, R103). -/
  | rasterReadComplete
  /-- A write into a view (R100). -/
  | rasterWrite (addr : BitVec 26) (data : Word) (be : Enables) (program : Bool) (a : Attr)
  /-- A write into a DIGITS Aperture (R108). -/
  | digitsWrite (addr : BitVec 26) (data : Word) (be : Enables) (program : Bool) (a : Attr)
  /-- A DATA read from a DIGITS Aperture (R109). -/
  | digitsRead (addr : BitVec 26) (be : Enables) (a : Attr)
  /-- Assertion of the reset pin with the straps as given (R1). -/
  | pinReset (size : DramSize)
  /-- One tenth of a second passes (R27). -/
  | tenthTick
  /-- The SCAN DOCUMENT request, with the SHEET sensor as the unit reads it (R79). -/
  | scanDocument (sheet : Bool)
  /-- The STOP SCAN request (R85). -/
  | stopScan
  /-- The OPEN COMPOSE request (R87). -/
  | openCompose
  /-- The PUSH COMPOSE request (R91). -/
  | pushCompose
  /-- A waiting PUSH COMPOSE goes on (R91). -/
  | pushComposeResume
  /-- The SEAL COMPOSE request (R91). -/
  | sealCompose
  /-- A waiting SEAL COMPOSE goes on (R91). -/
  | sealComposeResume
  /-- The BIND RASTER request (R94). -/
  | bindRaster
  /-- The UNBIND request (R92, R95). -/
  | unbind
  /-- The RELEASE PAGE request (R50). -/
  | releasePage
  /-- The SUBMIT SEND request (R145). -/
  | submitSend
  /-- The CANCEL SEND request (R153). -/
  | cancelSend
  /-- The PRINT PAGE request (R174). -/
  | printPage
  /-- The CANCEL PRINT request (R178). -/
  | cancelPrint
  /-- The SETTLE DESK request (R168). -/
  | settleDesk
  /-- The ABORT LINE request (R121). -/
  | abortLine
  /-- A request entry whose kind names no request (R31). -/
  | unknownRequest
  /-- The Coding Engine grants SC; SHEET as read after a seal (R83, R84). -/
  | scGrant (sheet : Bool)
  /-- The Coding Engine grants a compose context (R89). -/
  | cpGrant
  /-- The Coding Engine grants a raster context (R99). -/
  | rvGrant
  /-- The Coding Engine grants PR (R176). -/
  | prGrant
  /-- The Coding Engine grants a sending line context (R74). -/
  | lnSendGrant
  /-- The Coding Engine grants a receiving line context (R74). -/
  | lnReceiveGrant
  /-- A feeding motor step, with EDGE as read at it (R80). -/
  | feedStep (edge : Bool)
  /-- The 400th feeding step has not found EDGE covered (R80). -/
  | feedCountExpiry
  /-- The motor steps for one line: EDGE and SHEET as read, and the samples of the Even and Odd
  channels in the order they are read out (R81, R84). -/
  | scanLineStep (edge sheet : Bool) (even odd : List Byte)
  /-- The store wait timer runs out (R83). -/
  | storeWaitExpiry
  /-- The Dispatcher makes a look (R147). -/
  | look
  /-- The pump reports dial tone (R111, R112). -/
  | dialTone (l : LineNo)
  /-- The 5.0 s dial tone wait expires (R111, R112). -/
  | dialToneTimeout (l : LineNo)
  /-- The 2.0 s blind wait expires (R111). -/
  | blindWaitExpiry (l : LineNo)
  /-- The pump reports a digit sent (R112). -/
  | digitSent (l : LineNo)
  /-- The 2.0 s wait for DIGIT SENT expires (R112). -/
  | digitSentTimeout (l : LineNo)
  /-- A 2.0 s pause nibble expires (R112). -/
  | pauseExpiry (l : LineNo)
  /-- A 60 ms pulse break ends (R113). -/
  | pulseBreakExpiry (l : LineNo)
  /-- A 40 ms make ends; whether loop current flows at its end (R113, R118). -/
  | pulseMakeExpiry (l : LineNo) (current : Bool)
  /-- The 700 ms gap after a pulse digit expires (R113). -/
  | interdigitExpiry (l : LineNo)
  /-- The pump reports busy tone (R114). -/
  | busyTone (l : LineNo)
  /-- The pump reports a fax answer tone (R114). -/
  | answerTone (l : LineNo)
  /-- The answer timeout expires (R114). -/
  | answerTimeout (l : LineNo)
  /-- A polarity reversal (R115). -/
  | reversal (l : LineNo)
  /-- A metering pulse (R115, R162). -/
  | meter (l : LineNo)
  /-- A ring burst starts (R116, R117). -/
  | ringStart (l : LineNo)
  /-- A ring burst ends (R116). -/
  | ringEnd (l : LineNo)
  /-- The 8.0 s ring gap expires (R116). -/
  | ringGapExpiry (l : LineNo)
  /-- The 0.5 s after hook-off ends; whether loop current flows (R118). -/
  | loopSettleExpiry (l : LineNo) (current : Bool)
  /-- Loop current stops (R118). -/
  | loopLost (l : LineNo)
  /-- The 6.0 s wait for the FAREWELL to be sent expires (R120). -/
  | farewellTimeout (l : LineNo)
  /-- The 2.0 s rest expires (R120). -/
  | restExpiry (l : LineNo)
  /-- The pump reports a link frame sent (R124). -/
  | frameSent (l : LineNo)
  /-- The pump reports the check burst sent (R128). -/
  | checkSent (l : LineNo)
  /-- The check burst was heard clean (R133). -/
  | checkGood (l : LineNo)
  /-- The check burst was heard damaged or not at all (R133). -/
  | checkBad (l : LineNo)
  /-- The pump reports the answer tone played (R133). -/
  | tonePlayed (l : LineNo)
  /-- The 6.0 s wait for TONE PLAYED expires (R133). -/
  | tonePlayedTimeout (l : LineNo)
  /-- The pump has taken the whole Parcel (R124, R130). -/
  | parcelTaken (l : LineNo)
  /-- A Parcel is heard, with its bytes (R134). -/
  | parcelIn (l : LineNo) (bytes : List Byte)
  /-- The carrier of incoming Parcels stops (R134). -/
  | carrierLost (l : LineNo)
  /-- FRAME IN with an OFFER: the bytes after its kind, check included (R125, R128). -/
  | offer (l : LineNo) (body : List Byte)
  /-- FRAME IN with a CHOICE (R133). -/
  | choice (l : LineNo) (body : List Byte)
  /-- FRAME IN with a READY (R129). -/
  | ready (l : LineNo) (body : List Byte)
  /-- FRAME IN with a RATE DOWN (R129). -/
  | rateDown (l : LineNo) (body : List Byte)
  /-- FRAME IN with a PAGE END (R138). -/
  | pageEnd (l : LineNo) (body : List Byte)
  /-- FRAME IN with a VERDICT (R131). -/
  | verdict (l : LineNo) (body : List Byte)
  /-- FRAME IN with a FAREWELL (R142). -/
  | farewell (l : LineNo) (body : List Byte)
  /-- The 6.0 s frame wait expires (R127). -/
  | frameWaitExpiry (l : LineNo)
  /-- The 60.0 s page gap timer expires (R134). -/
  | pageGapExpiry (l : LineNo)
  /-- The answerer decides a verdict when its FINISHING ends (R139). -/
  | verdictDecide (l : LineNo)
  /-- The Run Clock reaches the next unit of a line's meter (R161). -/
  | unitExpiry (l : LineNo)
  /-- The head finishes a line (R176). -/
  | printLineDone
  /-- The cutter reports CUT DONE (R177). -/
  | cutDone
  /-- 2.0 s pass after the cut command without CUT DONE (R177). -/
  | cutTimeout
  /-- The PAPER input reports paper absent (R179). -/
  | paperLoss
  /-- The PAPER input reports paper present (R179). -/
  | paperReturn
deriving DecidableEq, Repr

end Sys2Proof
end

