-- ==== Sys2Proof/Decode.lean ====
section
/-! DEFINITION. The decoder over the table's bits: spec/opcode_table.json gives no row any bits,
so no word spells a command (log 13). -/

namespace Sys2Proof

/-- The command that a word spells: none, since no row of the table has bits (log 13). -/
def decodeTableWord (_nbits _w : Nat) : Option Instr := none

end Sys2Proof
end

