-- ==== Sys2Proof/Config.lean ====
section
/-! DEFINITION. What is fixed for the part: the places of the Controller Region's areas and
fields, the limits of the tables, and the values the spec leaves open. -/

namespace Sys2Proof.Config

/-! ### Free values

The spec leaves these values open and the part goes on: nothing constrains them (logs 8 and 9). -/

/-- A number left undefined by pin reset: the n-th such number asked for (R36, R38, R53, R171, R181). -/
opaque undefinedNat : Nat → Nat

/-- A notice code that no rule states: the n-th one (log 9). -/
opaque unstatedByte : Nat → Byte

/-- A notice value that no rule states: the n-th one (log 9). -/
opaque unstatedWord : Nat → Word

/-! ### The Controller Region (Table 2.1) -/

/-- Size of the Controller Region: 256 KiB. -/
def regionSize : Nat := 0x40000

def apertureTable : Nat := 0x00100
def lineConfigs : Nat := 0x00200
def requestRing : Nat := 0x00400
def noticeRing : Nat := 0x00C00
def deskAccounts : Nat := 0x01400
def printQueue : Nat := 0x01800
def flashList : Nat := 0x01A00
def zoneBands : Nat := 0x01B00
def bandCalendar : Nat := 0x01D00
def lineRecords : Nat := 0x01F00
def tariffTable : Nat := 0x02000
def pageDirectory : Nat := 0x03000
def leafLinks : Nat := 0x0B000
def freeLeafStack : Nat := 0x0D000
def sendJobs : Nat := 0x0F000
def jobStatuses : Nat := 0x0F200
def destinations : Nat := 0x10000
def callLog : Nat := 0x16000
def callLogEnd : Nat := 0x1A000

/-! ### The Config Block (Table 12.2) -/

def startWord : Nat := 0x00
def stateWord : Nat := 0x04
def statusFlags : Nat := 0x08
def interruptEnable : Nat := 0x0C
def postIndex : Nat := 0x10
def takeIndex : Nat := 0x14
def produceIndex : Nat := 0x18
def consumeIndex : Nat := 0x1C
def holdLimit : Nat := 0x20
def receiveReserve : Nat := 0x24
def poorThreshold : Nat := 0x28
def autoPrint : Nat := 0x2C
def incomingReserve : Nat := 0x30
def clockWeekday : Nat := 0x34
def clockTenths : Nat := 0x38
def leafBase : Nat := 0x3C
def leafCount : Nat := 0x40
def stackTop : Nat := 0x44
def faultCause : Nat := 0x48
def faultAddress : Nat := 0x4C
def faultAttribute : Nat := 0x50
def faultTime : Nat := 0x54
def ownTag : Nat := 0x60

/-! ### Marks and limits -/

/-- The END mark of the Leaf Link Table (R182). -/
def endMark : Nat := 0xFFFF

/-- The NONE mark of a byte field (R182). -/
def noneByte : Nat := 0xFF

/-- The NONE mark of a four-byte field (R182). -/
def noneWord : Nat := 0xFFFFFFFF

/-- Bytes of one Leaf (R36). -/
def leafBytes : Nat := 4096

/-- Bits of one Leaf (R37). -/
def leafBits : Nat := 32768

/-- The most lines a page holds (Table 3.2). -/
def maxLines : Nat := 2560

/-- The most References a request or an auto-print item may bring a page to (R47). -/
def maxReferences : Nat := 251

/-- Entries of the Posted Write Queue (R8). -/
def queueSlots : Nat := 8

/-- Free Leaves that the Page Start Minimum asks for (R52). -/
def pageStartLeaves : Nat := 16

/-- The largest value of a raw charge, in thousandths (R163). -/
def maxRaw : Nat := 99999999

/-- The largest value of an 8-digit BCD field. -/
def maxBcd8 : Nat := 99999999

/-- The largest 32-bit count, at which saturating counts stop. -/
def maxCount : Nat := 4294967295

end Sys2Proof.Config
end

