-- ==== Sys2Proof/Machine/State.lean ====
section
/-! DEFINITION. The state of the part as plain data, the reasons a step can stop, and the state
right after pin reset. -/

namespace Sys2Proof.Machine

/-! ### Why a step can stop -/

/-- No command of this part ends in a fault: the spec's bus errors are endings of a host cycle
(R16) and its status flags are state (R26), both next states. Nobody raises one; safe. -/
inductive Fault where
deriving DecidableEq, Repr

/-- Why a command has no meaning. -/
inductive Refusal where
  /-- Raised by an arm of exec for a row that has no meaning yet; safe. No arm raises it now. -/
  | notModelled (mnemonic : String)
deriving DecidableEq, Repr

/-! ### The memory path (Chapter 1) -/

/-- DRAM: the listed bytes, addresses rising, none equal to what an unlisted one reads as. -/
abbrev Memory := List Host.Cell

/-- The path state (R1). -/
inductive PathState where
  | pass | starting | running
deriving DecidableEq, Repr

/-- The kind of an Aperture (Table 1.2). -/
inductive ApertureKind where
  | compose | raster | digits
deriving DecidableEq, Repr

/-- What a bound Aperture is attached to: a page and the number of its context (CP0 or CP1, RV0 or
RV1) (Section 1.3). -/
structure Binding where
  page : Nat
  ctx : Fin 2
deriving DecidableEq, Repr

/-- One entry of the Path Unit's copy of the Aperture Table (Table 1.2). -/
structure Aperture where
  valid : Bool
  kind : ApertureKind
  base : Nat
  length : Nat
  userAllowed : Bool
  stride : Nat
  origin : Nat
  target : Nat
  binding : Option Binding
deriving DecidableEq, Repr

/-- A host cycle: the byte address of its word, and what it carries (Chapter 1). -/
structure Cycle where
  addr : Nat
  data : Word
  be : Enables
  write : Bool
  user : Bool
  program : Bool
  locked : Bool
deriving DecidableEq, Repr

/-- The class a cycle falls in (R2). -/
inductive CycleClass where
  | fetch | region | aperture (entry : Fin 8) | plain | noMemory
deriving DecidableEq, Repr

/-- The causes of a bus error (Table 1.4). -/
inductive BusError where
  | protection | notReady | unbound | noMemory
deriving DecidableEq, Repr

/-- How a host cycle ended: normally, with the data of a read, or with a bus error (R16). -/
inductive Ending where
  | done (data : Option Word)
  | busError (cause : BusError)
deriving DecidableEq, Repr

/-- What a stretched cycle waits for (R15). -/
inductive WaitFor where
  /-- A slot of the Posted Write Queue (R8). -/
  | slot
  /-- Its access, with the class the cycle was given (R9 to R11). -/
  | access (cls : CycleClass)
  /-- A slot of the closed-line queue of the entry's compose context (R89). -/
  | composeSlot (entry : Fin 8)
  /-- A line of the entry's view (R98). -/
  | view (entry : Fin 8)
deriving DecidableEq, Repr

/-- A host cycle that is stretched with wait states (R15). -/
structure Waiting where
  cycle : Cycle
  why : WaitFor
deriving DecidableEq, Repr

/-- One entry of the Posted Write Queue (R8). -/
structure Posted where
  addr : Nat
  data : Word
  be : Enables
deriving DecidableEq, Repr

/-- The Path Fault record when it is held (R17). -/
structure PathFault where
  cause : BusError
  addr : Nat
  write : Bool
  user : Bool
  program : Bool
  locked : Bool
  weekday : Nat
  tenths : Nat
  more : Bool
deriving DecidableEq, Repr

/-- The Path Unit. -/
structure PathUnit where
  state : PathState
  size : DramSize
  copy : Vector Aperture 8
  queue : List Posted
  holdLimit : Nat
  fault : Option PathFault
  /-- A LOCKED sequence is open (R12). -/
  sequence : Bool
  /-- The arbiter holds back the part's record writes (R12). -/
  hold : Bool
  waiting : Option Waiting
  ending : Option Ending
deriving DecidableEq, Repr

/-- The requesters of the arbiter's third class (R13). -/
inductive Requester where
  | requestUnit | storeUnit | chargeUnit | lineChannel (l : LineNo) | dispatcher | printUnit
deriving DecidableEq, Repr

/-- The status flags of Table 12.2. -/
inductive StatusFlag where
  | startFault | requestOverrun | noticeLost
deriving DecidableEq, Repr

/-- A record transfer that a LOCKED sequence holds back (R12). -/
inductive HeldTransfer where
  /-- A record whose bytes stand in the memory already, hidden from the host, or one that is read. -/
  | record (unit : Requester)
  /-- A notice that the Request Unit has taken, with its 16 bytes as it was raised (R32). -/
  | notice (bytes : List Byte)
  /-- The produce index word that follows a notice written (R32). -/
  | produce
  /-- The status flags word, with a flag that is set as the word is written (R26). -/
  | flags (flag : Option StatusFlag)
deriving DecidableEq, Repr

/-- The units of the third class, in turn order (R13). -/
inductive UnitTurn where
  | requestUnit | storeUnit | chargeUnit | lineChannels | dispatcher | printUnit
deriving DecidableEq, Repr

/-- The Memory Arbiter. -/
structure Arbiter where
  unitTurn : UnitTurn
  lineTurn : LineNo
  /-- The record transfers that a LOCKED sequence holds back, oldest first (R12). -/
  held : List HeldTransfer
  /-- The bytes of DRAM that held-back transfers will change, each with what it still holds: while the
  hold lasts the host reads these in place of the memory's (R12, log 11). -/
  hidden : List Host.Cell
deriving DecidableEq, Repr

/-! ### Requests, notices and time (Chapter 2) -/

/-- A request that waits inside its block, with its Aperture and its tag as they were read (R30, R91). -/
inductive Executing where
  | push (entry : Fin 8) (tag : List Byte)
  | seal (entry : Fin 8) (tag : List Byte)
deriving DecidableEq, Repr

/-- The Request Unit. -/
structure RequestUnit where
  take : Index
  post : Index
  produce : Index
  consume : Index
  startFault : Bool
  requestOverrun : Bool
  noticeLost : Bool
  interruptEnable : Bool
  executing : Option Executing
  pagesKept : Nat
  pagesDiscarded : Nat
  jobsKept : Nat
  jobsCancelled : Nat
deriving DecidableEq, Repr

/-- The Time Base (R27). -/
structure TimeBase where
  runClock : BitVec 32
  weekday : Nat
  tenths : Nat
deriving DecidableEq, Repr

/-- A moment on both clocks. -/
structure Stamp where
  run : BitVec 32
  weekday : Nat
  tenths : Nat
deriving DecidableEq, Repr

/-! ### The Page Store (Chapter 3) -/

/-- Vertical resolution of a page (R182: DRAFT 0, FINE 1). -/
inductive Resolution where
  | draft | fine
deriving DecidableEq, Repr

/-- The producer of a page (Table 3.2). -/
inductive Origin where
  | scan | compose | receive
deriving DecidableEq, Repr

/-- The states of a Page Record (Table 3.3). -/
inductive PageState where
  | free | filling | sealed | dropped
deriving DecidableEq, Repr

/-- The Store Unit's own state; the records are in DRAM. -/
structure StoreUnit where
  depth : Nat
  leafBase : Nat
  leafCount : Nat
  references : Vector Nat 128
  low : Bool
  receiveReserve : Nat
  /-- Creations, allocations and takes are taken (R53). -/
  taking : Bool
deriving DecidableEq, Repr

/-! ### The Coding Engine (Chapters 4 to 6) -/

/-- An ENCODE frame: the position is a stream offset (Table 4.4). -/
structure EncodeFrame where
  page : Nat
  next : Nat
  position : Nat
  reference : Raster
  nonDirect : Nat
deriving DecidableEq, Repr

/-- A stream position: a Leaf, its place in the chain, and the stream offset, of which the byte and
bit within the Leaf are offset mod 32768 (R37). -/
structure StreamPos where
  leaf : Nat
  chain : Nat
  offset : Nat
deriving DecidableEq, Repr

/-- A DECODE frame. Lines below `errorBelow` are handed white with the ERROR mark (R66). -/
structure DecodeFrame where
  page : Nat
  next : Nat
  pos : StreamPos
  reference : Raster
  errorBelow : Nat
deriving DecidableEq, Repr

/-- A closed line that waits to be coded, with its own white lead lines (Section 5.3). -/
structure ClosedLine where
  index : Nat
  pixels : Raster
  lead : Nat
deriving DecidableEq, Repr

/-- The window condition of a compose Aperture (Section 5.3). -/
inductive Window where
  | opened | closing | truncated
deriving DecidableEq, Repr

/-- A taken compose context (Section 5.3). -/
structure ComposeContext where
  entry : Fin 8
  enc : EncodeFrame
  current : Option (Nat × Raster)
  closedThrough : Option Nat
  lead : Nat
  queue : List ClosedLine
  disorder : Bool
  window : Window
deriving DecidableEq, Repr

/-- A taken raster context: a view (Table 6.1). The cache is oldest first. -/
structure ViewContext where
  entry : Fin 8
  dec : DecodeFrame
  cache : List (Nat × Raster)
  target : Option Nat
  fetch : Option Nat
deriving DecidableEq, Repr

/-- The coding of Link Form: PLAIN or REFERENCE K (Section 4.2). -/
inductive Coding where
  | plain
  | reference (k : Nat)
deriving DecidableEq, Repr

/-- The Parcel being built in the transmit parcel buffer (R67). -/
structure OpenParcel where
  first : Nat
  lines : Nat
  bits : List Bool
deriving DecidableEq, Repr

/-- A page being sent: decode half, encode half, open Parcel and pending line (Table 4.4). -/
structure SendHalf where
  dec : DecodeFrame
  seq : Byte
  /-- Index of the next transmitted line to be coded. -/
  nextSent : Nat
  /-- Transmitted lines of the page (R70, R78). -/
  total : Nat
  reference : Raster
  nonDirect : Nat
  parcel : Option OpenParcel
  pending : Option Raster
deriving DecidableEq, Repr

/-- A page being received: the encode half of store output, and the decode half's place in the
Parcel in hand: bits read, lines decoded and reference (R69). -/
structure ReceiveHalf where
  enc : Option EncodeFrame
  bit : Nat
  decoded : Nat
  reference : Raster
deriving DecidableEq, Repr

/-- A taken line context (Table 4.4). -/
structure LineContext where
  coding : Option Coding
  draft : Bool
  send : Option SendHalf
  receive : Option ReceiveHalf
deriving DecidableEq, Repr

/-- A Coding Context (Table 4.3). -/
inductive Ctx where
  | sc | cp (i : Fin 2) | rv (i : Fin 2) | pr | ln (l : LineNo)
deriving DecidableEq, Repr

/-- The Coding Engine: one turn for each of the seven classes, and the ten contexts, each FREE (none)
or taken (R71, R75). -/
structure Engine where
  turns : Vector (Fin 10) 7
  sc : Option EncodeFrame
  cp : Vector (Option ComposeContext) 2
  rv : Vector (Option ViewContext) 2
  pr : Option DecodeFrame
  ln : Vector (Option LineContext) 4
deriving DecidableEq, Repr

/-! ### The Scan Unit (Chapter 5) -/

/-- The states of Table 5.1; STORE WAIT remembers whether it was entered from CLOSING (R83). -/
inductive ScanState where
  | idle | feeding | reading | closing | storeWait (fromClosing : Bool)
deriving DecidableEq, Repr

/-- The threshold mode (R79). -/
inductive Threshold where
  | fixed (t : Nat)
  | track (q : Nat)
deriving DecidableEq, Repr

/-- The Scan Unit. -/
structure ScanUnit where
  state : ScanState
  resolution : Resolution
  threshold : Threshold
  maxPages : Nat
  pagesSealed : Nat
  feedSteps : Nat
  /-- Steps of the sheet motor since the feeding of the sheet began (R80, R81). -/
  motorSteps : Nat
  page : Option Nat
  linesRead : Nat
  white : Nat
  ring : List Raster
  waitUntil : BitVec 32
deriving DecidableEq, Repr

/-! ### Lines and the link protocol (Chapters 7 and 8) -/

/-- The direction a line is configured for (Table 7.1). -/
inductive Direction where
  | incoming | outgoing | both
deriving DecidableEq, Repr

/-- A line configuration as it is taken (R105). -/
structure LineConfig where
  direction : Direction
  pulse : Bool
  dialPrefix : List Nibble
  blind : Bool
  answerRings : Nat
  answerSeconds : Nat
  reversalSupervision : Bool
  chargePulses : Bool
  pulsePrice : Nat
deriving DecidableEq, Repr

/-- The states of Table 7.3. -/
inductive LineState where
  | idle | ringing | seized | dialling | alerting | linked | clearing | resting
deriving DecidableEq, Repr

/-- What the one expiry of a line timer stands for (7.3, R110 to R120, R127, R133, R134). -/
inductive TimerKind where
  | dialTone | blindWait | digitSent | pause | pulseBreak | pulseMake | interdigit | answer
  | ringGap | farewell | rest | frameWait | tonePlayed | pageGap
deriving DecidableEq, Repr

/-- A running line timer and its length in milliseconds (log 17). -/
structure LineTimer where
  kind : TimerKind
  ms : Nat
deriving DecidableEq, Repr

/-- The outcomes of a call (Table 12.1, values 16 to 29). -/
inductive CallOutcome where
  | sent | refused | busy | noAnswer | noTone | timeout | lineDropped | partly | failedRate
  | lineTaken | capEnded | aborted | cancelled | received
deriving DecidableEq, Repr

/-- The facts of an outgoing call (Section 7.3). -/
structure OutgoingFacts where
  job : Nat
  destination : Nat
  desk : Nat
  number : List Nibble
  resume : Nat
  startRate : Nat
deriving DecidableEq, Repr

/-- The facts of the call in progress: outgoing when `out` is there, incoming otherwise. -/
structure Call where
  out : Option OutgoingFacts
  config : LineConfig
  /-- Nibbles of the dial prefix and then the number that are finished (R112). -/
  dialled : Nat
  /-- Breaks of the pulse digit still to be made, the one in progress included (R113). -/
  breaks : Nat
  rings : Nat
  seizure : Stamp
  connect : Option Stamp
  outcome : Option CallOutcome
deriving DecidableEq, Repr

/-- The phases of Table 8.3. -/
inductive Phase where
  | awaitOffer | choosing | checkingCaller | awaitReady | sending | awaitVerdict
  | tone | offering | checkingAnswerer | receiving | finishing
deriving DecidableEq, Repr

/-- The judgement a VERDICT carries (Table 8.2). -/
inductive Judgement where
  | good | poor | refused
deriving DecidableEq, Repr

/-- A link frame (Table 8.2). -/
inductive Frame where
  | offer (reference : Bool) (maxK : Nat) (fine : Bool) (maxRate : Nat) (tag : Tag)
  | choice (coding : Coding) (resolution : Resolution) (rate : Nat) (tag : Tag)
  | ready
  | rateDown
  | pageEnd (seq : Byte) (lines : Nat) (last : Bool)
  | verdict (seq : Byte) (judgement : Judgement)
  | farewell
deriving DecidableEq, Repr

/-- A command to the data pump (R112, R116, Table 8.1). -/
inductive PumpCommand where
  | sendDigit (n : Nibble)
  | playTone
  | sendFrame (f : Frame)
  | sendCheck (rate : Nat)
  | sendParcel (bytes : List Byte)
  | listenCheck (rate : Nat)
  | listenParcels (rate : Nat)
deriving DecidableEq, Repr

/-- The Pump Link: the last command given, the send in progress, the listen command in force, and
whether a FAREWELL waits for the send in progress to end (R124, log 20). -/
structure Pump where
  command : Option PumpCommand
  sending : Option PumpCommand
  listen : Option PumpCommand
  farewellWaits : Bool
deriving DecidableEq, Repr

/-- The last verdict an answerer sent (R139). -/
structure LastVerdict where
  seq : Byte
  judgement : Judgement
  last : Bool
deriving DecidableEq, Repr

/-- The page a caller is sending (R130). -/
structure SendPage where
  index : Nat
  page : Nat
  seq : Byte
  /-- How often the page has been begun in this call, this time included (R131). -/
  times : Nat
  /-- The transmitting Reference is held. -/
  referenced : Bool
deriving DecidableEq, Repr

/-- Where a received page goes (R135). -/
inductive Output where
  | stored (page : Nat)
  | through
  | refused
deriving DecidableEq, Repr

/-- A line that waits to be coded or handed on (R136). -/
structure WaitingLine where
  pixels : Raster
  substitute : Bool
deriving DecidableEq, Repr

/-- The page an answerer is receiving (Section 8.5). -/
structure ReceivePage where
  seq : Byte
  output : Output
  cursor : Nat
  lastGood : Option Raster
  /-- Line count and LAST mark from the PAGE END once it has been taken. -/
  ending : Option (Nat × Bool)
  truncated : Bool
  waiting : List WaitingLine
deriving DecidableEq, Repr

/-- A POOR copy that awaits its resend, with its PAGE END line count (R140, R141). -/
structure Awaited where
  page : Nat
  announced : Nat
deriving DecidableEq, Repr

/-- The link state (R126). -/
structure Link where
  phase : Phase
  /-- Rate class in force. -/
  rate : Option Nat
  coding : Option Coding
  /-- Call resolution. -/
  resolution : Option Resolution
  nextSeq : Byte
  confirmed : Nat
  resent : Nat
  done : Nat
  repeats : Nat
  lastVerdict : Option LastVerdict
  remoteTag : Option Tag
  /-- Rate class of the last CHOICE sent or taken. -/
  rateChosen : Nat
  /-- Coding and resolution of the CHOICE an answerer has taken (R133). -/
  choiceTaken : Option (Coding × Resolution)
  /-- FINE offered and maximum rate class of the OFFER taken (R128). -/
  offerKept : Option (Bool × Nat)
  sending : Option SendPage
  page : Option ReceivePage
  awaited : Option Awaited
deriving DecidableEq, Repr

/-- One Line Channel. -/
structure LineChannel where
  state : LineState
  offHook : Bool
  timer : Option LineTimer
  /-- The 0.5 s that loop current is allowed to appear in is running (R118). -/
  settling : Bool
  held : LineConfig
  call : Option Call
  link : Option Link
  pump : Pump
  /-- Receive parcel buffers that hold a Parcel, oldest first (R134). -/
  received : List (List Byte)
  /-- The closed Parcel in the transmit parcel buffer (R67). -/
  transmit : Option (List Byte)
deriving DecidableEq, Repr

/-! ### Dispatcher, Charge Unit and Print Unit (Chapters 9 to 11) -/

/-- The Dispatcher's own state; the records are in DRAM. -/
structure Dispatcher where
  submitList : List Nat
  submitCount : Nat
  lookPending : Bool
  incomingReserve : Nat
deriving DecidableEq, Repr

/-- A line meter (Table 10.1). Raw charges are in thousandths. -/
structure Meter where
  active : Bool
  job : Nat
  destination : Nat
  desk : Nat
  zone : Nat
  chargePulses : Bool
  pulsePrice : Nat
  seizure : Stamp
  connect : Option Stamp
  units : Nat
  nextUnit : Option (BitVec 32)
  localRaw : Nat
  pulses : Nat
  pulseRaw : Nat
  saturated : Bool
  pageInProgress : Bool
  capPending : Bool
deriving DecidableEq, Repr

/-- What the Charge Unit holds of a desk inside itself (R171). -/
structure DeskHeld where
  capped : Bool
  markup : Nat
deriving DecidableEq, Repr

/-- The Charge Unit's own state; the Desk Accounts are in DRAM. -/
structure ChargeUnit where
  meters : Vector Meter 4
  desks : Vector DeskHeld 32
  sequence : BitVec 32
  /-- CAP ENDED clear orders given and not yet taken; empty between steps (R166, log 12). -/
  orders : List LineNo
deriving DecidableEq, Repr

/-- The states of Table 11.2. -/
inductive PrintState where
  | idle | printing | cutting | paperWait | through
deriving DecidableEq, Repr

/-- What the Print Unit does at the Print Port for a line (R176): the even and odd pixels shifted into the chains,
each chain strobed, and the paper stepped. -/
inductive PrintAct where
  | shift | strobeA | strobeB | step
deriving DecidableEq, Repr

/-- The Print Unit's own state; the Print Queue is in DRAM. -/
structure PrintUnit where
  state : PrintState
  current : Option Nat
  buffer : Option Raster
  owner : Option LineNo
  /-- Resolution of the through-print. -/
  throughResolution : Resolution
  /-- The through-print has ended and its last line is being printed (R180). -/
  throughEnded : Bool
  entryCount : Nat
  autoPrint : Bool
  paper : Bool
  chainA : BitVec 896
  chainB : BitVec 896
  /-- What the Print Port has done for the line printed last, in order (R176). -/
  lineActs : List PrintAct
  paperSteps : Nat
deriving DecidableEq, Repr

/-- The part. -/
structure State where
  memory : Memory
  path : PathUnit
  arbiter : Arbiter
  request : RequestUnit
  time : TimeBase
  store : StoreUnit
  engine : Engine
  scan : ScanUnit
  lines : Vector LineChannel 4
  poorThreshold : Nat
  dispatcher : Dispatcher
  charge : ChargeUnit
  print : PrintUnit
  /-- The model's own count of free values used (log 8). -/
  free : Nat
  /-- The commands that wait, first in, first out (log 1). -/
  pending : List Instr
deriving DecidableEq, Repr

/-! ### The state right after pin reset -/

/-- An empty entry of the Aperture Table copy (R5). -/
def Aperture.empty : Aperture :=
  { valid := false, kind := .compose, base := 0, length := 0, userAllowed := false, stride := 0,
    origin := 0, target := 0, binding := none }

/-- The values that R105 takes from a Line Config entry of zeros: what an emptied copy holds
(DESIGN CHOICE, log 7). -/
def LineConfig.empty : LineConfig :=
  { direction := .incoming, pulse := false, dialPrefix := [], blind := false, answerRings := 0,
    answerSeconds := 45, reversalSupervision := false, chargePulses := false, pulsePrice := 0 }

/-- The Pump Link in its idle state (R110). -/
def Pump.idle : Pump := { command := none, sending := none, listen := none, farewellWaits := false }

/-- A Line Channel after pin reset (R110). -/
def LineChannel.reset : LineChannel :=
  { state := .idle, offHook := false, timer := none, settling := false, held := .empty,
    call := none, link := none, pump := .idle, received := [], transmit := none }

/-- The zero moment. -/
def Stamp.zero : Stamp := { run := 0, weekday := 0, tenths := 0 }

/-- An inactive meter with all fields cleared (R159). -/
def Meter.cleared : Meter :=
  { active := false, job := 0, destination := 0, desk := 0, zone := 0, chargePulses := false,
    pulsePrice := 0, seizure := .zero, connect := none, units := 0, nextUnit := none, localRaw := 0,
    pulses := 0, pulseRaw := 0, saturated := false, pageInProgress := false, capPending := false }

/-- The Path Unit after pin reset with the straps as given (R1, R5, R8, R12, R15, R17). -/
def PathUnit.reset (size : DramSize) : PathUnit :=
  { state := .pass, size := size, copy := Vector.replicate 8 .empty, queue := [], holdLimit := 64,
    fault := none, sequence := false, hold := false, waiting := none, ending := none }

/-- The Memory Arbiter after pin reset (R13). -/
def Arbiter.reset : Arbiter :=
  { unitTurn := .requestUnit, lineTurn := 0, held := [], hidden := [] }

/-- The Request Unit after pin reset (R26, R29, R32, R34, R35; the take index and the counts are
the model's, log 7). -/
def RequestUnit.reset : RequestUnit :=
  { take := 0, post := 0, produce := 0, consume := 0, startFault := false, requestOverrun := false,
    noticeLost := false, interruptEnable := false, executing := none, pagesKept := 0,
    pagesDiscarded := 0, jobsKept := 0, jobsCancelled := 0 }

/-- The Coding Engine after pin reset: every context FREE, every turn at SC (R71, R75). -/
def Engine.reset : Engine :=
  { turns := Vector.replicate 7 0, sc := none, cp := Vector.replicate 2 none,
    rv := Vector.replicate 2 none, pr := none, ln := Vector.replicate 4 none }

/-- The Scan Unit after pin reset (Section 5.1; the settings are the model's, log 7). -/
def ScanUnit.reset : ScanUnit :=
  { state := .idle, resolution := .draft, threshold := .fixed 0, maxPages := 0, pagesSealed := 0,
    feedSteps := 0, motorSteps := 0, page := none, linesRead := 0, white := 255, ring := [], waitUntil := 0 }

/-- The part right after pin reset at power-on (R1, R22, R27, R53, R110, R147, R159, R171, R181).
Values that the spec does not give are the model's (DESIGN CHOICE, logs 6 and 7). -/
def State.reset : State :=
  { memory := []
    path := PathUnit.reset .mib8
    arbiter := Arbiter.reset
    request := RequestUnit.reset
    time := { runClock := 0, weekday := 0, tenths := 0 }
    store := { depth := 0, leafBase := 0, leafCount := 0, references := Vector.replicate 128 0,
               low := false, receiveReserve := 32, taking := false }
    engine := Engine.reset
    scan := ScanUnit.reset
    lines := Vector.replicate 4 .reset
    poorThreshold := 32
    dispatcher := { submitList := [], submitCount := 0, lookPending := false, incomingReserve := 0 }
    charge := { meters := Vector.replicate 4 .cleared,
                desks := Vector.replicate 32 { capped := false, markup := 0 },
                sequence := 0, orders := [] }
    print := { state := .idle, current := none, buffer := none, owner := none,
               throughResolution := .draft, throughEnded := false, entryCount := 0,
               autoPrint := false, paper := true, chainA := 0, chainB := 0, lineActs := [],
               paperSteps := 0 }
    free := 0
    pending := [] }

end Sys2Proof.Machine
end

