-- ==== Sys2Proof/Machine/Bits.lean ====
section
/-! DEFINITION. Encodings of R182: little-endian binary fields, BCD fields, nibbles, flags and time
words, and the check of R68. -/

namespace Sys2Proof.Machine

/-! ### Binary fields -/

/-- The low n bytes of v, least significant first (R182). -/
def leBytes : Nat → Nat → List Byte
  | 0, _ => []
  | n + 1, v => BitVec.ofNat 8 v :: leBytes n (v / 256)

/-- The number whose bytes are given least significant first (R182). -/
def leValue : List Byte → Nat
  | [] => 0
  | b :: bs => b.toNat + 256 * leValue bs

/-- The low n bytes of v, most significant first: the order of the Pump Link (R183). -/
def beBytes (n v : Nat) : List Byte := (leBytes n v).reverse

/-- The number whose bytes are given most significant first (R183). -/
def beValue (bs : List Byte) : Nat := leValue bs.reverse

/-- Byte i of a word: bits 8i to 8i + 7 (DEDUCED, log 10). -/
def Word.byte (w : Word) (i : Nat) : Byte := w.extractLsb' (8 * i) 8

/-- A flag is set when the field is not zero (R182). -/
def flagOf (v : Nat) : Bool := v != 0

/-- The part writes a set flag as 1 (R182). -/
def flagValue (b : Bool) : Nat := if b then 1 else 0

/-! ### Nibbles and BCD -/

/-- The high nibble of a byte. -/
def highNibble (b : Byte) : Nibble := b.extractLsb' 4 4

/-- The low nibble of a byte. -/
def lowNibble (b : Byte) : Nibble := b.extractLsb' 0 4

/-- A byte from its high and low nibbles. -/
def byteOf (hi lo : Nibble) : Byte := hi ++ lo

/-- The nibbles of a run of bytes, nibble 0 the high nibble of the first byte (R182). -/
def nibbles : List Byte → List Nibble
  | [] => []
  | b :: bs => highNibble b :: lowNibble b :: nibbles bs

/-- The bytes of a run of nibbles; an odd last nibble is followed by zero (R182). -/
def packNibbles : List Nibble → List Byte
  | [] => []
  | [n] => [byteOf n 0]
  | h :: l :: rest => byteOf h l :: packNibbles rest

/-- The number that BCD digits spell, most significant first, a nibble above 9 read as 9
(R105, R158, R172). -/
def bcdValue (ds : List Nibble) : Nat := ds.foldl (fun acc d => 10 * acc + min d.toNat 9) 0

/-- The low n decimal digits of v, most significant first (R182). -/
def bcdDigits : Nat → Nat → List Nibble
  | 0, _ => []
  | n + 1, v => bcdDigits n (v / 10) ++ [BitVec.ofNat 4 (v % 10)]

/-- Eight BCD digits of v in four bytes (R182). -/
def bcd8 (v : Nat) : List Byte := packNibbles (bcdDigits 8 v)

/-- A money value as a notice value: its 8 BCD digits in the four bytes of the field (Section 12.3). -/
def bcdWord (v : Nat) : Nat := leValue (bcd8 v)

/-- Whether every nibble is a decimal digit. -/
def allDigits (ns : List Nibble) : Bool := ns.all (fun n => decide (n.toNat ≤ 9))

/-- A number up to its end mark: the nibbles before the first E or F (R107). -/
def dialledPart (ns : List Nibble) : List Nibble := ns.takeWhile (fun n => decide (n.toNat < 14))

/-- A number's nibbles before its end mark include a digit nibble (R107). -/
def hasDigit (ns : List Nibble) : Bool := (dialledPart ns).any (fun n => decide (n.toNat ≤ 9))

/-! ### Time words, tags and the check -/

/-- A time word: tenths in bits 0 to 19, weekday in bits 20 to 22 (R182). -/
def timeWord (weekday tenths : Nat) : Nat := tenths % 2 ^ 20 + 2 ^ 20 * (weekday % 8)

/-- A Station Tag of twenty spaces (R42, R182). -/
def Tag.spaces : Tag := List.replicate 10 0xFF

/-- One bit through the check register: generator x^16 + x^12 + x^5 + 1 (R68). -/
def crcBit (c : BitVec 16) (bit : Bool) : BitVec 16 :=
  if c.msb != bit then (c <<< 1) ^^^ 0x1021 else c <<< 1

/-- The bits of a byte, most significant first. -/
def byteBits (b : Byte) : List Bool :=
  [b.getLsbD 7, b.getLsbD 6, b.getLsbD 5, b.getLsbD 4, b.getLsbD 3, b.getLsbD 2, b.getLsbD 1,
    b.getLsbD 0]

/-- The check of a Parcel or frame: the register starts at all ones, every byte goes most
significant bit first, and the final value is the check (R68). -/
def check (bs : List Byte) : BitVec 16 := (bs.flatMap byteBits).foldl crcBit 0xFFFF

/-- The two check bytes that follow, high byte first (R68). -/
def checkBytes (bs : List Byte) : List Byte := beBytes 2 (check bs).toNat

/-- The first eight bits as a byte, most significant first, padded with zero bits. -/
def byteOfBits (bs : List Bool) : Byte :=
  BitVec.ofNat 8 ((bs.take 8 ++ List.replicate (8 - bs.length) false).foldl
    (fun acc x => 2 * acc + x.toNat) 0)

/-- The first n bytes of a run of bits, most significant first, padded with zero bits. -/
def bitBytes : Nat → List Bool → List Byte
  | 0, _ => []
  | n + 1, bs => byteOfBits bs :: bitBytes n (bs.drop 8)

/-- Bits packed into whole bytes, padded with zero bits at the end (R67). -/
def packBits (bs : List Bool) : List Byte := bitBytes ((bs.length + 7) / 8) bs

end Sys2Proof.Machine
end

