-- ==== Sys2Proof/Machine/Memory.lean ====
section
/-! DEFINITION. DRAM: reading and writing bytes of the canonical list of cells. -/

namespace Sys2Proof.Machine

/-- What a byte of DRAM that nothing has written reads as: the spec gives no power-on contents
(DESIGN CHOICE, unsafe, log 6). -/
def Memory.unwritten : Byte := 0

/-- The canonical form: addresses strictly rising, and no cell equal to what an unlisted address
reads as, so that equal memories are equal lists. -/
abbrev Memory.wf (m : Memory) : Prop :=
  m.Pairwise (fun a b => a.1 < b.1) ∧ ∀ c ∈ m, c.2 ≠ Memory.unwritten

/-- The byte at an address. -/
def Memory.read (m : Memory) (a : Nat) : Byte :=
  match m.find? (fun c => c.1 == a) with
  | some c => c.2
  | none => Memory.unwritten

/-- The cells that bytes from an address up make: a byte equal to the unwritten one makes none. -/
def Memory.cells (a : Nat) : List Byte → Memory
  | [] => []
  | b :: bs => if b = Memory.unwritten then cells (a + 1) bs else (a, b) :: cells (a + 1) bs

/-- Bytes written from an address up; every other byte is left as it is. -/
def Memory.write (m : Memory) (a : Nat) (bs : List Byte) : Memory :=
  m.filter (fun c => decide (c.1 < a)) ++ Memory.cells a bs
    ++ m.filter (fun c => decide (a + bs.length ≤ c.1))

/-- n bytes from an address up. -/
def Memory.readBytes (m : Memory) (a n : Nat) : List Byte :=
  (List.range n).map (fun i => m.read (a + i))

/-- A binary field of n bytes, least significant first (R182). -/
def Memory.readValue (m : Memory) (a n : Nat) : Nat := leValue (m.readBytes a n)

/-- The word at a word address. -/
def Memory.readWord (m : Memory) (a : Nat) : Word := BitVec.ofNat 32 (m.readValue a 4)

/-- The bytes of a word of which the enabled ones come from the data and the others from memory. -/
def Memory.merged (m : Memory) (a : Nat) (data : Word) (be : Enables) : List Byte :=
  (List.range 4).map (fun i => if be.getLsbD i then Word.byte data i else m.read (a + i))

/-- A word write: the byte enables select the bytes that are changed (R4). -/
def Memory.writeWord (m : Memory) (a : Nat) (data : Word) (be : Enables) : Memory :=
  m.write a (m.merged a data be)

/-- One bit written: bit i counted from the most significant bit of the byte at a (R37). -/
def Memory.writeBit (m : Memory) (a i : Nat) (bit : Bool) : Memory :=
  let mask : Byte := BitVec.ofNat 8 (2 ^ (7 - i))
  m.write a [if bit then m.read a ||| mask else m.read a &&& ~~~mask]

end Sys2Proof.Machine
end

