-- ==== Sys2Proof/Machine/Ops.lean ====
section
/-! DEFINITION. The named operations over the state that every block uses: reads and writes of the
Controller Region, record transfers (R14), the Arbiter's turns (R13), status flags (R26), notices
(R32, R33), and the hold of a LOCKED sequence (R12). -/

namespace Sys2Proof.Machine

/-! ### Sizes and places -/

/-- The installed DRAM size in bytes (R1). -/
def installedBytes : DramSize → Nat
  | .mib8 => 0x800000
  | .mib16 => 0x1000000
  | .mib32 => 0x2000000

/-- The installed size of this part. -/
def State.installed (s : State) : Nat := installedBytes s.path.size

/-- The start of the Controller Region: the top 256 KiB (R1). -/
def State.regionBase (s : State) : Nat := s.installed - Config.regionSize

/-! ### Reading the Controller Region -/

/-- The byte at an offset of the Controller Region. -/
def State.byteAt (s : State) (off : Nat) : Byte := s.memory.read (s.regionBase + off)

/-- n bytes from an offset of the Controller Region. -/
def State.bytesAt (s : State) (off n : Nat) : List Byte := s.memory.readBytes (s.regionBase + off) n

/-- A binary field of n bytes at an offset of the Controller Region (R182). -/
def State.valueAt (s : State) (off n : Nat) : Nat := s.memory.readValue (s.regionBase + off) n

/-- A BCD field of n bytes at an offset, a nibble above 9 read as 9. -/
def State.bcdAt (s : State) (off n : Nat) : Nat := bcdValue (nibbles (s.bytesAt off n))

/-! ### Writing the Controller Region -/

/-- Bytes written at an offset of the Controller Region, as a path access or as Coding Engine data:
no transfer of the third class (R13). -/
def State.poke (s : State) (off : Nat) (bytes : List Byte) : State :=
  { s with memory := s.memory.write (s.regionBase + off) bytes }

/-- Pieces of one record, each at its offset, written one after the other. -/
def State.pokes (s : State) (pieces : List (Nat × List Byte)) : State :=
  pieces.foldl (fun t p => t.poke p.1 p.2) s

/-- The turn after a unit of the third class is granted starts at the unit that follows it (R13). -/
def UnitTurn.after : Requester → UnitTurn
  | .requestUnit => .storeUnit
  | .storeUnit => .chargeUnit
  | .chargeUnit => .lineChannels
  | .lineChannel _ => .dispatcher
  | .dispatcher => .printUnit
  | .printUnit => .requestUnit

/-- The Arbiter grants one record transfer to a unit: the turns pass on (R13, R14). -/
def Arbiter.granted (a : Arbiter) (u : Requester) : Arbiter :=
  { a with
    unitTurn := UnitTurn.after u
    lineTurn := match u with
      | .lineChannel l => l + 1
      | _ => a.lineTurn }

/-! ### The hold of a LOCKED sequence (R12, log 11) -/

/-- What DRAM still holds of a byte that a held-back transfer is to change. -/
def Arbiter.hiddenByte (a : Arbiter) (addr : Nat) : Option Byte :=
  (a.hidden.find? (fun c => c.1 == addr)).map (fun c => c.2)

/-- The byte of DRAM at an address, as a host cycle reads it (R12). -/
def State.hostByte (s : State) (addr : Nat) : Byte :=
  if s.path.hold then (s.arbiter.hiddenByte addr).getD (s.memory.read addr) else s.memory.read addr

/-- The word of DRAM at a word address, as a host cycle reads it. -/
def State.hostWord (s : State) (addr : Nat) : Word :=
  BitVec.ofNat 32 (leValue ((List.range 4).map (fun i => s.hostByte (addr + i))))

/-- The bytes of one piece of a held-back record hidden from the host, where they are not yet. -/
def State.hidePiece (s : State) (a : Arbiter) (piece : Nat × List Byte) : Arbiter :=
  let addrs := (List.range piece.2.length).map (fun i => s.regionBase + piece.1 + i)
  { a with hidden := a.hidden ++
      (addrs.filter (fun x => (a.hiddenByte x).isNone)).map (fun x => (x, s.memory.read x)) }

/-- A transfer put off behind those that are. -/
def Arbiter.holds (a : Arbiter) (x : HeldTransfer) : Arbiter := { a with held := a.held ++ [x] }

/-- A transfer of the third class put off to the end of the sequence. -/
def State.holdTransfer (s : State) (x : HeldTransfer) : State := { s with arbiter := s.arbiter.holds x }

/-- The Arbiter after a record transfer is asked for: granted, or put off while a LOCKED sequence holds
the third class back, its bytes hidden from the host (R12, R13). -/
def State.recordArbiter (s : State) (u : Requester) (pieces : List (Nat × List Byte)) : Arbiter :=
  if s.path.hold then (pieces.foldl s.hidePiece s.arbiter).holds (.record u) else s.arbiter.granted u

/-- One record transfer of a unit: the pieces of the record as one burst (R14). While a LOCKED sequence
holds the third class back, the unit goes on with its record as it has it, and the host sees the bytes
when the sequence has ended (R12, log 11). -/
def State.record (s : State) (u : Requester) (pieces : List (Nat × List Byte)) : State :=
  { s.pokes pieces with arbiter := s.recordArbiter u pieces }

/-- A record read by a unit, a transfer of the third class as a write is: its turn passes on, and while a
LOCKED sequence holds the third class back it stands among those held back, though the unit takes what it
reads at once (Table 1.3, R13; DESIGN CHOICE, log 11). Which reads are transfers is log 93. -/
def State.readRecord (s : State) (u : Requester) : State := s.record u []

/-- The Arbiter after pieces are written that no hold holds back: the host sees their bytes (R12). -/
def State.shownArbiter (s : State) (pieces : List (Nat × List Byte)) : Arbiter :=
  if s.path.hold then
    { s.arbiter with hidden := s.arbiter.hidden.filter (fun c =>
        !pieces.any (fun p => decide (s.regionBase + p.1 ≤ c.1)
          && decide (c.1 < s.regionBase + p.1 + p.2.length))) }
  else s.arbiter

/-- Path accesses and Coding Engine data, which no hold holds back: written, and seen by the host at
once (R12). -/
def State.pokesNow (s : State) (pieces : List (Nat × List Byte)) : State :=
  { s.pokes pieces with arbiter := s.shownArbiter pieces }

/-- A Config Block word written by a unit as a record transfer (R19). -/
def State.configRecord (s : State) (u : Requester) (off v : Nat) : State :=
  s.record u [(off, leBytes 4 v)]

/-! ### The status flags (R26) -/

/-- The status flags word as the Request Unit holds the flags (Table 12.2). -/
def RequestUnit.flagsWord (r : RequestUnit) : Nat :=
  flagValue r.startFault + 2 * flagValue r.requestOverrun + 4 * flagValue r.noticeLost

/-- A flag set inside the Request Unit. -/
def RequestUnit.withFlag (r : RequestUnit) : StatusFlag → RequestUnit
  | .startFault => { r with startFault := true }
  | .requestOverrun => { r with requestOverrun := true }
  | .noticeLost => { r with noticeLost := true }

/-- The status flags word written, with a flag set as it is written; both wait for the end of a
sequence that holds the third class back, so that no flag is set between a host's LOCKED read and write
of the word (R12, R26). -/
def State.writeFlags (s : State) (f : Option StatusFlag) : State :=
  if s.path.hold then s.holdTransfer (.flags f)
  else
    let r := match f with
      | some x => s.request.withFlag x
      | none => s.request
    ({ s with request := r }).configRecord .requestUnit Config.statusFlags r.flagsWord

/-- The Request Unit sets a flag and writes the status flags word (R26). -/
def State.setFlag (s : State) (f : StatusFlag) : State := s.writeFlags (some f)

/-! ### Time -/

/-- The present moment on both clocks. -/
def State.now (s : State) : Stamp :=
  { run := s.time.runClock, weekday := s.time.weekday, tenths := s.time.tenths }

/-- The Time of Day as a time word (R182). -/
def State.timeOfDay (s : State) : Nat := timeWord s.time.weekday s.time.tenths

/-- A moment's Time of Day as a time word. -/
def Stamp.word (t : Stamp) : Nat := timeWord t.weekday t.tenths

/-- Whether the Run Clock has reached a Run Clock time, as 32-bit counts that wrap (R27; DEDUCED,
log 16). -/
def State.reached (s : State) (t : BitVec 32) : Bool :=
  decide ((s.time.runClock - t).toNat < 2 ^ 31)

/-! ### Notices (R32, R33) -/

/-- The kinds of notice (Section 12.3). -/
inductive NoticeKind where
  | requestDone | started | pageSealed | pageDropped | storeLow | scanEnded | callEnded | incoming
  | destinationEnded | jobDone | deskCapped | printDone | paperOut
deriving DecidableEq, Repr

/-- The code of a notice kind (Section 12.3). -/
def NoticeKind.code : NoticeKind → Nat
  | .requestDone => 1
  | .started => 2
  | .pageSealed => 3
  | .pageDropped => 4
  | .storeLow => 5
  | .scanEnded => 6
  | .callEnded => 7
  | .incoming => 8
  | .destinationEnded => 9
  | .jobDone => 10
  | .deskCapped => 11
  | .printDone => 12
  | .paperOut => 13

/-- A notice as it is raised (Table 12.5). A code or value that no rule states is none and is
written as a free value (log 9). -/
structure Notice where
  kind : NoticeKind
  /-- High nibble of byte 0: the request kind of a REQUEST DONE. -/
  requestKind : Nat := 0
  code : Option Nat := none
  /-- Bytes 2 and 3: the tag, or the subject and the destination. -/
  subject : List Byte
  value1 : Option Nat := none
  value2 : Option Nat := none
deriving DecidableEq, Repr

/-- Bytes 2 and 3 of a notice with a subject and no destination (Table 12.5). -/
def subjectOf (n : Nat) : List Byte := [BitVec.ofNat 8 n, 0xFF]

/-- Bytes 2 and 3 of a notice with no subject. -/
def noSubject : List Byte := [0xFF, 0xFF]

/-- The 16 bytes of a notice raised at a time; `n` numbers the free values it uses (Table 12.5). -/
def Notice.bytes (x : Notice) (time n : Nat) : List Byte :=
  [BitVec.ofNat 8 (x.kind.code + 16 * x.requestKind),
   match x.code with
   | some c => BitVec.ofNat 8 c
   | none => Config.unstatedByte n]
  ++ x.subject ++ leBytes 4 time
  ++ leBytes 4 (match x.value1 with
    | some v => v
    | none => (Config.unstatedWord n).toNat)
  ++ leBytes 4 (match x.value2 with
    | some v => v
    | none => (Config.unstatedWord (n + 1)).toNat)

/-- The notices that the ring holds unread (Section 2.7). -/
def RequestUnit.unread (r : RequestUnit) : Nat := (r.produce - r.consume).toNat

/-- A notice's bytes written into its entry as one burst (R32). -/
def State.noticeEntry (s : State) (bytes : List Byte) : State :=
  s.record .requestUnit [(Config.noticeRing + 16 * (s.request.produce.toNat % 128), bytes)]

/-- The produce index advanced and written (R32). -/
def State.advanceProduce (s : State) : State :=
  let t := { s with request := { s.request with produce := s.request.produce + 1 } }
  t.configRecord .requestUnit Config.produceIndex t.request.produce.toNat

/-- The 16 bytes of a notice as it is raised now, with the Time of Day of the raising (R32). -/
def State.noticeBytes (s : State) (x : Notice) : List Byte := x.bytes s.timeOfDay s.free

/-- The numbers of a notice's free values used up (log 9). -/
def State.noticeRaised (s : State) : State := { s with free := s.free + 2 }

/-- The notice written into its entry as one burst, then the produce index advanced (R32). -/
def State.writeNotice (s : State) (x : Notice) : State :=
  (s.noticeEntry (s.noticeBytes x)).noticeRaised.advanceProduce

/-- A block raises a notice: not written in PASS (R32); put off with the third class in a LOCKED
sequence, with the Time of Day of the raising (R12); dropped with NOTICE LOST while 128 are unread
(R33), written otherwise. -/
def State.raise (s : State) (x : Notice) : State :=
  match s.path.state with
  | .pass => s
  | _ =>
    if s.path.hold then s.noticeRaised.holdTransfer (.notice (s.noticeBytes x))
    else if s.request.unread < 128 then s.writeNotice x
    else s.setFlag .noticeLost

/-- The Notice Interrupt output (R35). -/
def State.noticeInterrupt (s : State) : Bool :=
  s.request.interruptEnable && s.request.produce != s.request.consume

/-! ### Codes (Table 12.1) -/

/-- The results of a request (Table 2.6). -/
inductive Result where
  | ok | unknown | argument | state | busy | full | noPage | noSheet
deriving DecidableEq, Repr

/-- The code of a request result. -/
def Result.code : Result → Nat
  | .ok => 0
  | .unknown => 1
  | .argument => 2
  | .state => 3
  | .busy => 4
  | .full => 5
  | .noPage => 6
  | .noSheet => 7

/-- The code of a call's outcome. -/
def CallOutcome.code : CallOutcome → Nat
  | .sent => 16
  | .refused => 17
  | .busy => 18
  | .noAnswer => 19
  | .noTone => 20
  | .timeout => 21
  | .lineDropped => 22
  | .partly => 23
  | .failedRate => 24
  | .lineTaken => 25
  | .capEnded => 26
  | .aborted => 27
  | .cancelled => 28
  | .received => 29

/-- The ends of scans, pages and print items (Table 12.1, values 32 to 42). -/
inductive EndCode where
  | done | misfeed | jam | storeFull | stopped | directoryFull | restart | unbind | replaced
  | incomplete | dropped
deriving DecidableEq, Repr

/-- The code of an end. -/
def EndCode.code : EndCode → Nat
  | .done => 32
  | .misfeed => 33
  | .jam => 34
  | .storeFull => 35
  | .stopped => 36
  | .directoryFull => 37
  | .restart => 38
  | .unbind => 39
  | .replaced => 40
  | .incomplete => 41
  | .dropped => 42

/-! ### Lines, meters and desks by number -/

/-- A Line Channel. -/
def State.line (s : State) (l : LineNo) : LineChannel := s.lines[l]

/-- A Line Channel replaced. -/
def State.setLine (s : State) (l : LineNo) (x : LineChannel) : State :=
  { s with lines := s.lines.set l x }

/-- A line's meter. -/
def State.meterOf (s : State) (l : LineNo) : Meter := s.charge.meters[l]

/-- A line's meter replaced. -/
def State.setMeter (s : State) (l : LineNo) (m : Meter) : State :=
  { s with charge := { s.charge with meters := s.charge.meters.set l m } }

/-- A line's Coding Context. -/
def State.lnContext (s : State) (l : LineNo) : Option LineContext := s.engine.ln[l]

/-- A line's Coding Context replaced. -/
def State.setLn (s : State) (l : LineNo) (c : Option LineContext) : State :=
  { s with engine := { s.engine with ln := s.engine.ln.set l c } }

/-- The part is RUNNING. -/
def State.isRunning (s : State) : Bool := s.path.state == .running

/-- The four lines in number order. -/
def allLines : List LineNo := [0, 1, 2, 3]

/-! ### Host cycles and their endings (R15 to R17) -/

/-- The code of a bus error cause (Table 12.2). -/
def BusError.code : BusError → Nat
  | .protection => 1
  | .notReady => 2
  | .unbound => 3
  | .noMemory => 4

/-- The bytes of the Path Fault field: cause word, address, attribute, time (Table 12.2). -/
def faultBytes : Option PathFault → List Byte
  | none => leBytes 16 0
  | some f =>
    leBytes 4 (f.cause.code + 256 * flagValue f.more) ++ leBytes 4 f.addr
      ++ leBytes 4 (flagValue f.user + 2 * flagValue f.program + 4 * flagValue f.locked
          + 8 * flagValue f.write)
      ++ leBytes 4 (timeWord f.weekday f.tenths)

/-- The Path Fault record after a bus error of a cycle: filled when it was empty, MORE set
otherwise (R17). -/
def State.faultAfter (s : State) (c : Cycle) (cause : BusError) : PathFault :=
  match s.path.fault with
  | some f => { f with more := true }
  | none =>
    { cause := cause, addr := c.addr, write := c.write, user := c.user, program := c.program,
      locked := c.locked, weekday := s.time.weekday, tenths := s.time.tenths, more := false }

/-- A cycle ends normally. -/
def State.endCycle (s : State) (data : Option Word) : State :=
  { s with path := { s.path with waiting := none, ending := some (.done data) } }

/-- A cycle ends with a bus error: the record takes it, is written into the Config Block in STARTING
and RUNNING as a path access, and the error is signalled (R16, R17). -/
def State.endError (s : State) (c : Cycle) (cause : BusError) : State :=
  let f := s.faultAfter c cause
  let t := { s with path := { s.path with
    fault := some f, waiting := none, ending := some (.busError cause) } }
  match s.path.state with
  | .pass => t
  | _ => t.poke Config.faultCause (faultBytes (some f))

/-! ### Requests (R30, R31) -/

/-- The offset of the request entry at the take index (Section 2.6). -/
def State.requestOffset (s : State) : Nat := Config.requestRing + 32 * (s.request.take.toNat % 64)

/-- The kind of the request entry at the take index. -/
def State.requestKind (s : State) : Nat := s.valueAt s.requestOffset 2

/-- Argument n, 1 to 6, of the request entry at the take index (Section 12.3). -/
def State.argument (s : State) (n : Nat) : Nat := s.valueAt (s.requestOffset + 4 * n) 4

/-- The four bytes of argument n of the request entry at the take index. -/
def State.argumentBytes (s : State) (n : Nat) : List Byte := s.bytesAt (s.requestOffset + 4 * n) 4

/-- The Request Unit can take a request now: RUNNING, an entry exposed, none in execution (R30), and
no LOCKED sequence that holds the third class back, in which the entry is read (R13; log 11). -/
def State.canTakeRequest (s : State) : Bool :=
  s.isRunning && s.request.take != s.request.post && s.request.executing.isNone && !s.path.hold

/-- The request at the take index can be taken and has the given kind. -/
def State.requestIs (s : State) (kind : Nat) : Bool := s.canTakeRequest && s.requestKind == kind

/-- The tag of the request in execution: as it was read with its entry, where the request has waited
inside its block (R30). -/
def State.requestTag (s : State) : List Byte :=
  match s.request.executing with
  | some (.push _ tag) | some (.seal _ tag) => tag
  | none => s.bytesAt (s.requestOffset + 2) 2

/-- REQUEST DONE is raised, then the take index advances by one and is written (R30, R31). -/
def State.answer (s : State) (kind : Nat) (r : Result) (v1 v2 : Option Nat := none) : State :=
  let t := s.raise
    { kind := .requestDone, requestKind := kind, code := some r.code, subject := s.requestTag,
      value1 := v1, value2 := v2 }
  let u := { t with request := { t.request with take := t.request.take + 1, executing := none } }
  u.configRecord .requestUnit Config.takeIndex u.request.take.toNat

end Sys2Proof.Machine
end

