-- ==== Sys2Proof/Machine/Store.lean ====
section
/-! DEFINITION. The Page Store (Chapter 3): Page Records, the Free Leaf Stack, chains, the commit of
lines, sealing, dropping, freeing, References and the low condition. -/

namespace Sys2Proof.Machine

/-! ### Page Records (Table 3.2, Table 12.6) -/

/-- The offset of a Page Record. -/
def pageOffset (p : Nat) : Nat := Config.pageDirectory + 256 * p

/-- The state that a state byte names; none where it names no state (R182). -/
def PageState.ofCode : Nat → Option PageState
  | 0 => some .free
  | 1 => some .filling
  | 2 => some .sealed
  | 3 => some .dropped
  | _ => none

/-- The code of a page state. -/
def PageState.code : PageState → Nat
  | .free => 0
  | .filling => 1
  | .sealed => 2
  | .dropped => 3

/-- The code of an origin. -/
def Origin.code : Origin → Nat
  | .scan => 0
  | .compose => 1
  | .receive => 2

/-- The code of a resolution (R182). -/
def Resolution.code : Resolution → Nat
  | .draft => 0
  | .fine => 1

/-- The resolution that a value names; none where it names none. -/
def Resolution.ofCode : Nat → Option Resolution
  | 0 => some .draft
  | 1 => some .fine
  | _ => none

/-- The state of a page; a state byte that names none counts as FREE. -/
def State.pageState (s : State) (p : Nat) : PageState :=
  (PageState.ofCode (s.valueAt (pageOffset p) 1)).getD .free

/-- The origin of a page is RECEIVE. -/
def State.pageReceived (s : State) (p : Nat) : Bool := s.valueAt (pageOffset p + 1) 1 == 2

/-- The resolution of a page; a value that names none is read as FINE (DESIGN CHOICE, log 51). -/
def State.pageResolution (s : State) (p : Nat) : Resolution :=
  (Resolution.ofCode (s.valueAt (pageOffset p + 2) 1)).getD .fine

/-- Byte 3 of a Page Record: bit 0 TRUNCATED, bit 1 POOR, bit 2 DISORDER, bit 7 OWNED. -/
def State.pageFlags (s : State) (p : Nat) : Byte := s.byteAt (pageOffset p + 3)

/-- The TRUNCATED flag in byte 3 of a Page Record. -/
def truncatedBit : Byte := 0x01
/-- The POOR flag. -/
def poorBit : Byte := 0x02
/-- The DISORDER flag. -/
def disorderBit : Byte := 0x04
/-- The OWNED mark. -/
def ownedBit : Byte := 0x80

/-- OWNED: the owner Reference is still held. -/
def State.pageOwned (s : State) (p : Nat) : Bool := (s.pageFlags p).getLsbD 7

/-- TRUNCATED. -/
def State.pageTruncated (s : State) (p : Nat) : Bool := (s.pageFlags p).getLsbD 0

/-- Lines committed to a page's stream. -/
def State.pageLines (s : State) (p : Nat) : Nat := s.valueAt (pageOffset p + 4) 2

/-- Length of a page's stream in bits. -/
def State.codedBits (s : State) (p : Nat) : Nat := s.valueAt (pageOffset p + 8) 4

/-- First Leaf of a page's chain. -/
def State.firstLeaf (s : State) (p : Nat) : Nat := s.valueAt (pageOffset p + 0x0C) 2

/-- Last Leaf of a page's chain. -/
def State.lastLeaf (s : State) (p : Nat) : Nat := s.valueAt (pageOffset p + 0x0E) 2

/-- Leaves in a page's chain. -/
def State.leavesOf (s : State) (p : Nat) : Nat := s.valueAt (pageOffset p + 0x10) 2

/-- Substituted lines of a page. -/
def State.substituted (s : State) (p : Nat) : Nat := s.valueAt (pageOffset p + 0x12) 2

/-- Remote Station Tag of a page. -/
def State.pageTag (s : State) (p : Nat) : Tag := s.bytesAt (pageOffset p + 0x18) 10

/-- Restart Table entry i of a page: a stream offset, or the NONE mark. -/
def State.restartEntry (s : State) (p i : Nat) : Option Nat :=
  let v := s.valueAt (pageOffset p + 0x60 + 4 * i) 4
  if v = Config.noneWord then none else some v

/-- The reference count of a page, as the Store Unit holds it (R47). -/
def State.references (s : State) (p : Nat) : Nat := (s.store.references[p]?).getD 0

/-- A record of the Store Unit: pieces of one Page Record as one burst. -/
def State.pageRecord (s : State) (p : Nat) (pieces : List (Nat × List Byte)) : State :=
  s.record .storeUnit (pieces.map (fun x => (pageOffset p + x.1, x.2)))

/-- The fields of a fresh or FREE record beside its state byte (R42, R44): zero, END for the Leaf
fields, NONE for the Restart Table. -/
def freshFields (state origin resolution flags refs : Nat) (tag : Tag) : List (Nat × List Byte) :=
  [(0x00, [BitVec.ofNat 8 state, BitVec.ofNat 8 origin, BitVec.ofNat 8 resolution,
      BitVec.ofNat 8 flags, 0, 0, BitVec.ofNat 8 refs]),
   (0x08, leBytes 4 0 ++ leBytes 2 Config.endMark ++ leBytes 2 Config.endMark ++ leBytes 2 0
      ++ leBytes 2 0 ++ leBytes 4 0 ++ tag ++ List.replicate 62 0 ++ List.replicate 160 0xFF)]

/-- The fields of a FREE record (R44). -/
def freeFields : List (Nat × List Byte) := freshFields 0 0 0 0 0 Tag.spaces

/-- The Store Unit's count of a page set, and written into the record with the flags byte (R47). -/
def State.setReferences (s : State) (p n : Nat) (flags : Byte) : State :=
  let t := { s with store := { s.store with references := s.store.references.setIfInBounds p n } }
  t.pageRecord p [(3, [flags]), (6, [BitVec.ofNat 8 n])]

/-! ### The Free Leaf Stack and the chains -/

/-- The offset of entry n of the Free Leaf Stack. -/
def stackEntry (n : Nat) : Nat := Config.freeLeafStack + 2 * n

/-- The offset of the Leaf Link Table entry of Leaf n. -/
def linkEntry (n : Nat) : Nat := Config.leafLinks + 2 * n

/-- The Leaf Link Table entry of a Leaf (R40). -/
def State.link (s : State) (leaf : Nat) : Nat := s.valueAt (linkEntry leaf) 2

/-- The depth set and written into the Free Leaf Stack top field (R38). -/
def State.setDepth (s : State) (d : Nat) : State :=
  { s with store := { s.store with depth := d } }.configRecord .storeUnit Config.stackTop d

/-- A push: the Leaf number goes into entry d and the depth becomes d + 1 (R38). -/
def State.pushLeaf (s : State) (leaf : Nat) : State :=
  (s.record .storeUnit [(stackEntry s.store.depth, leBytes 2 leaf)]).setDepth (s.store.depth + 1)

/-- The Leaf on top of the stack (R38). -/
def State.topLeaf (s : State) : Nat := s.valueAt (stackEntry (s.store.depth - 1)) 2

/-- The Leaves of a chain from its first Leaf, following the links to the END mark, at most n. -/
def State.chainFrom (s : State) : Nat → Nat → List Nat
  | 0, _ => []
  | n + 1, leaf => if leaf = Config.endMark then [] else leaf :: s.chainFrom n (s.link leaf)

/-- The chain of a page. -/
def State.chainOf (s : State) (p : Nat) : List Nat := s.chainFrom (s.leavesOf p) (s.firstLeaf p)

/-- The Leaf that lies n links after a Leaf; none where a link is END or names no Leaf (R66). -/
def State.leafAfter (s : State) (leaf : Nat) : Nat → Option Nat
  | 0 => if leaf < s.store.leafCount then some leaf else none
  | n + 1 => if leaf < s.store.leafCount then s.leafAfter (s.link leaf) n else none

/-! ### The low condition (R51) -/

/-- The Scan Unit is told that store is available: a scan in STORE WAIT returns to the state it left
(R83). -/
def State.storeAvailable (s : State) : State :=
  match s.scan.state with
  | .storeWait fromClosing =>
    { s with scan := { s.scan with state := if fromClosing then .closing else .reading } }
  | _ => s

/-- The low condition evaluated: STORE LOW when it begins, the Scan Unit told when it ends (R51). -/
def State.checkLow (s : State) : State :=
  let low := decide (s.store.depth ≤ s.store.receiveReserve)
  let t := { s with store := { s.store with low := low } }
  match s.store.low, low with
  | false, true =>
    t.raise { kind := .storeLow, subject := noSubject, value1 := some s.store.depth,
              value2 := some s.store.receiveReserve }
  | true, false => t.storeAvailable
  | _, _ => t

/-! ### Creation and allocation -/

/-- The lowest-numbered FREE Page Record (R42). -/
def State.freePage? (s : State) : Option Nat :=
  (List.range 128).find? (fun p => s.pageState p == .free)

/-- A page is created in the lowest FREE record, or the creation is refused (R42, R53). -/
def State.createPage (s : State) (o : Origin) (r : Resolution) (tag : Tag) : Option (State × Nat) :=
  if s.store.taking then
    match s.freePage? with
    | none => none
    | some p =>
      let t := { s with store := { s.store with references := s.store.references.setIfInBounds p 1 } }
      some (t.pageRecord p (freshFields 1 o.code r.code 0x80 1 tag), p)
  else none

/-- The Page Start Minimum (R52). -/
def State.pageStartMinimum (s : State) : Bool :=
  s.isRunning && decide (Config.pageStartLeaves ≤ s.store.depth) && s.freePage?.isSome

/-- Whether an allocation for a page is granted, by its origin and the depth (Table 3.1). -/
def State.allocationGranted (s : State) (p : Nat) : Bool :=
  s.store.taking && s.pageState p == .filling &&
    (if s.pageReceived p then decide (1 ≤ s.store.depth)
     else decide (s.store.receiveReserve < s.store.depth))

/-- A Leaf is popped and appended to the page's chain; then the low condition is evaluated (R41). -/
def State.allocate (s : State) (p : Nat) : Option State :=
  if s.allocationGranted p then
    let n := s.topLeaf
    let t := s.setDepth (s.store.depth - 1)
    let before := if s.leavesOf p = 0 then pageOffset p + 0x0C else linkEntry (s.lastLeaf p)
    some (t.pokesNow [(linkEntry n, leBytes 2 Config.endMark), (before, leBytes 2 n),
      (pageOffset p + 0x0E, leBytes 2 n), (pageOffset p + 0x10, leBytes 2 (s.leavesOf p + 1))]).checkLow
  else none

/-! ### The commit of a line (R43) -/

/-- The DRAM address of a byte of a Leaf (R36). -/
def State.leafByte (s : State) (leaf byte : Nat) : Nat :=
  s.store.leafBase + Config.leafBytes * leaf + byte

/-- One bit of a page's stream written (R37). -/
def State.writeStreamBit (s : State) (chain : List Nat) (k : Nat) (bit : Bool) : State :=
  match chain[k / Config.leafBits]? with
  | none => s
  | some leaf =>
    { s with memory := s.memory.writeBit (s.leafByte leaf (k % Config.leafBits / 8)) (k % 8) bit }

/-- Bits of a page's stream written from a stream offset onward (R37). -/
def State.writeStream (s : State) (chain : List Nat) : Nat → List Bool → State
  | _, [] => s
  | k, b :: bs => (s.writeStreamBit chain k b).writeStream chain (k + 1) bs

/-- What a commit came to: made, or refused with its cause (R43, R77). -/
inductive Commit where
  | made (s : State)
  | refusedLeaf
  | refusedLines
  | refusedState

/-- The state in which there is room for n more bits: as it is, or after an allocation (R43). -/
def State.makeRoom (s : State) (p n : Nat) : Option State :=
  if n ≤ s.leavesOf p * Config.leafBits - s.codedBits p then some s else s.allocate p

/-- A coded line of a FILLING page is committed: bits first, then the stream fields as one burst,
with the producer's extra pieces of the record in the same burst (R43). -/
def State.commit (s : State) (p : Nat) (bits : List Bool) (extra : List (Nat × List Byte)) :
    Commit :=
  if s.pageState p ≠ .filling then .refusedState
  else if Config.maxLines ≤ s.pageLines p then .refusedLines
  else
    match s.makeRoom p bits.length with
    | none => .refusedLeaf
    | some t =>
      let index := s.pageLines p
      let offset := s.codedBits p
      let u := t.writeStream (t.chainOf p) offset bits
      let restart := if index % 64 = 0 then [(0x60 + 4 * (index / 64), leBytes 4 offset)] else []
      .made (u.pokesNow (([(0x04, leBytes 2 (index + 1)), (0x08, leBytes 4 (offset + bits.length))]
        ++ restart ++ extra).map (fun (x : Nat × List Byte) => (pageOffset p + x.1, x.2))))

/-! ### What a page's end means to others -/

/-- A Line Channel that holds a page as its awaited copy ceases to hold it (R140). -/
def LineChannel.forgetAwaited (x : LineChannel) (p : Nat) : LineChannel :=
  match x.link with
  | some k =>
    match k.awaited with
    | some a => if a.page = p then { x with link := some { k with awaited := none } } else x
    | none => x
  | none => x

/-- The Store Unit tells the Line Channels that a page has been dropped or freed (R140). -/
def State.tellAwaited (s : State) (p : Nat) : State :=
  { s with lines := s.lines.map (fun x => x.forgetAwaited p) }

/-- The view and its number that a waiting read waits on (R98). -/
def State.waitingView (s : State) : Option (Fin 2 × ViewContext) :=
  match s.path.waiting with
  | some { why := .view entry, .. } =>
    ([0, 1] : List (Fin 2)).findSome? (fun i =>
      match s.engine.rv[i] with
      | some v => if v.entry = entry then some (i, v) else none
      | none => none)
  | _ => none

/-- A raster context replaced. -/
def State.setRv (s : State) (i : Fin 2) (v : Option ViewContext) : State :=
  { s with engine := { s.engine with rv := s.engine.rv.set i v } }

/-- A read that waits on a view of a page now DROPPED ends with zero data, and target and prefetch
line become none (R103). -/
def State.tellDropped (s : State) (p : Nat) : State :=
  match s.waitingView with
  | some (i, v) =>
    if v.dec.page = p then
      (s.setRv i (some { v with target := none, fetch := none })).endCycle (some 0)
    else s
  | none => s

/-- A read that waits on a line at or above the lines of a page now SEALED ends with zero data, and
the target becomes none (R101). -/
def State.tellSealed (s : State) (p : Nat) : State :=
  match s.waitingView with
  | some (i, v) =>
    match v.target with
    | some line =>
      if v.dec.page = p && decide (s.pageLines p ≤ line) then
        (s.setRv i (some { v with target := none })).endCycle (some 0)
      else s
    | none => s
  | none => s

/-! ### Freeing, sealing, dropping and References -/

/-- A page is freed: its Leaves pushed from first to last, its record written FREE, the low
condition evaluated (R44). -/
def State.freePage (s : State) (p : Nat) : State :=
  let t := (s.chainOf p).foldl State.pushLeaf s
  let u := { t with store := { t.store with references := t.store.references.setIfInBounds p 0 } }
  ((u.pageRecord p freeFields).tellAwaited p).checkLow

/-- A page that is SEALED or DROPPED with count 0 is freed (R44). -/
def State.freeIfDone (s : State) (p : Nat) : State :=
  match s.pageState p with
  | .sealed | .dropped => if s.references p = 0 then s.freePage p else s
  | _ => s

/-- A FILLING page is sealed, with flags set in the record, and PAGE SEALED raised (R45). -/
def State.sealPage (s : State) (p : Nat) (flags : Byte) : State :=
  match s.pageState p with
  | .filling =>
    let t := s.pageRecord p
      [(0, [BitVec.ofNat 8 PageState.sealed.code]), (3, [s.pageFlags p ||| flags]),
       (0x14, leBytes 4 s.timeOfDay)]
    let u := t.raise { kind := .pageSealed, subject := subjectOf p, value1 := some (s.pageLines p),
                       value2 := some (s.references p) }
    (u.tellSealed p).freeIfDone p
  | _ => s

/-- A FILLING or SEALED page is dropped: OWNED cleared with its Reference, PAGE DROPPED raised with
a code, and the page freed when its count is 0 (R46). -/
def State.dropPage (s : State) (p : Nat) (code : Nat) : State :=
  match s.pageState p with
  | .filling | .sealed =>
    let count := s.references p - (if s.pageOwned p then 1 else 0)
    let t := { s with store := { s.store with references := s.store.references.setIfInBounds p count } }
    let u := t.pageRecord p
      [(0, [BitVec.ofNat 8 PageState.dropped.code]), (3, [s.pageFlags p &&& ~~~ownedBit]),
       (6, [BitVec.ofNat 8 count])]
    let v := u.raise { kind := .pageDropped, subject := subjectOf p, code := some code,
                       value1 := some count }
    ((v.tellAwaited p).tellDropped p).freeIfDone p
  | _ => s

/-- A Reference is taken to a page in one of the given states while the count after it is at most
the limit (R47, R53). -/
def State.takeReference (s : State) (p : Nat) (states : List PageState) (limit : Nat) : Option State :=
  if s.store.taking && states.contains (s.pageState p) && decide (s.references p + 1 ≤ limit) then
    some (s.setReferences p (s.references p + 1) (s.pageFlags p))
  else none

/-- A Reference is dropped, and the page freed when that was the last of a SEALED or DROPPED page
(R47). -/
def State.dropReference (s : State) (p : Nat) : State :=
  (s.setReferences p (s.references p - 1) (s.pageFlags p)).freeIfDone p

/-- The owner Reference is given up: OWNED cleared and the count lowered (R50). -/
def State.dropOwner (s : State) (p : Nat) : State :=
  (s.setReferences p (s.references p - 1) (s.pageFlags p &&& ~~~ownedBit)).freeIfDone p

end Sys2Proof.Machine
end

