-- ==== Sys2Proof/Machine/Coding.lean ====
section
/-! DEFINITION. The line codes of Chapter 4: runs, Length Words, PLAIN and REFERENCE K, and the
decoding of Store Form lines from a page's stream. -/

namespace Sys2Proof.Machine

/-! ### Runs and Length Words (R58 to R60) -/

/-- The 1792 pixels of a line, left to right (R58). -/
def pixels (x : Raster) : List Bool := (List.range 1792).map x.getMsbD

/-- The runs of a list of pixels: the present run has the given colour and length so far (R58). -/
def runsFrom (colour : Bool) (n : Nat) : List Bool → List Nat
  | [] => [n]
  | p :: ps => if p = colour then runsFrom colour (n + 1) ps else n :: runsFrom p 1 ps

/-- The runs of a line: white first, alternating (R58). -/
def runs (x : Raster) : List Nat := runsFrom false 0 (pixels x)

/-- The low k bits of v, most significant first. -/
def numberBits : Nat → Nat → List Bool
  | 0, _ => []
  | k + 1, v => v.testBit k :: numberBits k v

/-- The Length Word of a run: n zero bits and the n + 1 bits of v = r + 1 (R59). -/
def lengthWord (r : Nat) : List Bool :=
  let n := Nat.log2 (r + 1)
  List.replicate n false ++ numberBits (n + 1) (r + 1)

/-- The run code of a line (R60). -/
def runCode (x : Raster) : List Bool := (runs x).flatMap lengthWord

/-- A source of coded bits: the bit at a stream offset, or none where the bits have ended. -/
abbrev BitSource := Nat → Option Bool

/-- Zero bits counted from an offset until a 1, at most the given number of bits: the count and the
offset after the 1 (R59). -/
def countZeros (get : BitSource) : Nat → Nat → Nat → Option (Nat × Nat)
  | 0, _, _ => none
  | fuel + 1, k, n =>
    match get k with
    | none => none
    | some true => some (n, k + 1)
    | some false => countZeros get fuel (k + 1) (n + 1)

/-- n bits read from an offset as a number that begins with the bits already read. -/
def readNumber (get : BitSource) : Nat → Nat → Nat → Option Nat
  | 0, _, v => some v
  | n + 1, k, v =>
    match get k with
    | none => none
    | some b => readNumber get n (k + 1) (2 * v + b.toNat)

/-- A Length Word read at an offset: the run and the offset after it; none on a decode error: an
eleventh zero, or bits that run out (R59, R64). -/
def readLengthWord (get : BitSource) (k : Nat) : Option (Nat × Nat) :=
  match countZeros get 11 k 0 with
  | none => none
  | some (n, after) =>
    match readNumber get n after 1 with
    | none => none
    | some v => some (v - 1, after + n)

/-- Runs read until their sum is 1792; `acc` holds the pixels so far as a number. None on a line
error (R60, R64). The fuel is the greatest number of runs of a line. -/
def readRuns (get : BitSource) : Nat → Nat → Bool → Bool → Nat → Nat → Option (Raster × Nat)
  | 0, _, _, _, _, _ => none
  | fuel + 1, k, first, colour, sum, acc =>
    match readLengthWord get k with
    | none => none
    | some (r, after) =>
      if r = 0 && !first then none
      else if 1792 < sum + r then none
      else
        let acc' := acc * 2 ^ r + (if colour then 2 ^ r - 1 else 0)
        if sum + r = 1792 then some (BitVec.ofNat 1792 acc', after)
        else readRuns get fuel after false (!colour) (sum + r) acc'

/-- A run code read at an offset: the line and the offset after it (R60, R64). -/
def readRunCode (get : BitSource) (k : Nat) : Option (Raster × Nat) :=
  readRuns get 1793 k true false 0 0

/-! ### The codings (R61 to R64) -/

/-- A line read at an offset in a coding against a reference line (R61, R64). -/
def readLine (coding : Coding) (get : BitSource) (k : Nat) (reference : Raster) :
    Option (Raster × Nat) :=
  match coding with
  | .plain => readRunCode get k
  | .reference _ =>
    match get k with
    | none => none
    | some false => readRunCode get (k + 1)
    | some true =>
      match get (k + 1) with
      | none => none
      | some true => some (reference, k + 2)
      | some false =>
        match readRunCode get (k + 2) with
        | none => none
        | some (x, after) => some (reference ^^^ x, after)

/-- A coded line, and whether it stands DIRECT (a PLAIN line counts as DIRECT). -/
structure CodedLine where
  bits : List Bool
  direct : Bool
deriving DecidableEq, Repr

/-- The DIRECT form of a line (Table 4.1). -/
def directForm (x : Raster) : List Bool := false :: runCode x

/-- The DIFFERENCE form of a line against its reference (Table 4.1). -/
def differenceForm (x reference : Raster) : List Bool := true :: false :: runCode (x ^^^ reference)

/-- The coder: PLAIN is the run code; REFERENCE K chooses the header by R62. -/
def codeLine (coding : Coding) (forced : Bool) (x reference : Raster) : CodedLine :=
  match coding with
  | .plain => { bits := runCode x, direct := true }
  | .reference _ =>
    if forced then { bits := directForm x, direct := true }
    else if x = reference then { bits := [true, true], direct := false }
    else if (differenceForm x reference).length < (directForm x).length then
      { bits := differenceForm x reference, direct := false }
    else { bits := directForm x, direct := true }

/-- The non-DIRECT count at which the next line is forced: K - 1 (R63). -/
def Coding.limit : Coding → Nat
  | .plain => 0
  | .reference k => k - 1

/-- The non-DIRECT count after a line (R63). -/
def nonDirectAfter (n : Nat) (c : CodedLine) : Nat := if c.direct then 0 else n + 1

/-- Store Form is REFERENCE 8 (R65). -/
def storeCoding : Coding := .reference 8

/-- The next line of an ENCODE frame coded in Store Form (R62, R63, R65). -/
def EncodeFrame.code (f : EncodeFrame) (x : Raster) : CodedLine :=
  codeLine storeCoding (f.nonDirect == storeCoding.limit || f.next % 64 == 0) x f.reference

/-- An ENCODE frame after its line has been committed (R74). -/
def EncodeFrame.advance (f : EncodeFrame) (x : Raster) (c : CodedLine) : EncodeFrame :=
  { f with next := f.next + 1, position := f.position + c.bits.length, reference := x,
           nonDirect := nonDirectAfter f.nonDirect c }

/-- An ENCODE frame at the start of a page (Table 4.4). -/
def EncodeFrame.start (p : Nat) : EncodeFrame :=
  { page := p, next := 0, position := 0, reference := Raster.white, nonDirect := 0 }

/-! ### Decoding a stored page (R66) -/

/-- The bits of a page's stream, read from a stream position on: they end at the page's coded bits,
and at a Leaf boundary whose link names no Leaf (R37, R66). -/
def State.streamBit (s : State) (p : Nat) (pos : StreamPos) : BitSource := fun k =>
  if s.codedBits p ≤ k then none
  else
    match s.leafAfter pos.leaf (k / Config.leafBits - pos.chain) with
    | none => none
    | some leaf =>
      some ((s.memory.read (s.leafByte leaf (k % Config.leafBits / 8))).getMsbD (k % 8))

/-- The position at a stream offset of a page, found along the chain from the first Leaf (R37). -/
def State.positionAt (s : State) (p offset : Nat) : StreamPos :=
  let chain := offset / Config.leafBits
  { leaf := (s.leafAfter (s.firstLeaf p) chain).getD Config.endMark, chain := chain, offset := offset }

/-- The position after bits up to an offset have been read: the Leaf is that of the last bit read. -/
def State.positionAfter (s : State) (pos : StreamPos) (offset : Nat) : StreamPos :=
  let chain := max pos.chain ((offset - 1) / Config.leafBits)
  { leaf := (s.leafAfter pos.leaf (chain - pos.chain)).getD Config.endMark, chain := chain,
    offset := offset }

/-- A DECODE frame at the start of a page (Table 4.4). -/
def State.decodeStart (s : State) (p : Nat) : DecodeFrame :=
  { page := p, next := 0, pos := { leaf := s.firstLeaf p, chain := 0, offset := 0 },
    reference := Raster.white, errorBelow := 0 }

/-- The ERROR span that never ends: every later line of the page is white with the ERROR mark. In a record
that names more than 2560 lines it ends there (DESIGN CHOICE, log 80). -/
def errorForever : Nat := Config.maxLines

/-- A DECODE frame repositioned at a restart line; where its Restart Table entry is NONE, every line
from there on is an error (R66, R98). The reference becomes white (DESIGN CHOICE, log 52), and a later
reposition at an entry that is not NONE ends the errors (DESIGN CHOICE, log 53). -/
def State.reposition (s : State) (f : DecodeFrame) (line : Nat) : DecodeFrame :=
  match s.restartEntry f.page (line / 64) with
  | some offset =>
    { f with next := line, pos := s.positionAt f.page offset, reference := Raster.white,
             errorBelow := 0 }
  | none => { f with next := line, reference := Raster.white, errorBelow := errorForever }

/-- What a decode hands to its client: the line, its ERROR mark, and the frame after it. -/
structure Decoded where
  pixels : Raster
  error : Bool
  frame : DecodeFrame

/-- A line handed white with the ERROR mark. -/
def DecodeFrame.errorLine (f : DecodeFrame) : Decoded :=
  { pixels := Raster.white, error := true, frame := { f with next := f.next + 1 } }

/-- The frame from which the next line is read: a page's first line begins at the record's first
Leaf, and a decoder whose ERROR span has ended repositions at the restart line (R66), also at line 2560 and
above, where a record names so many lines (DESIGN CHOICE, log 80). -/
def State.decodeFrom (s : State) (f : DecodeFrame) : DecodeFrame :=
  if f.errorBelow ≠ 0 && f.errorBelow == f.next then s.reposition f f.next
  else if f.pos.offset = 0 then { f with pos := { leaf := s.firstLeaf f.page, chain := 0, offset := 0 } }
  else f

/-- The line at the frame's next line (R66): white for a DROPPED page and beyond the lines of a page
that is not FILLING; white with the ERROR mark in an ERROR span or at a line error; decoded from the
stream otherwise. -/
def State.decodeNext (s : State) (f : DecodeFrame) : Decoded :=
  if s.pageState f.page = .dropped ||
      (s.pageState f.page ≠ .filling && decide (s.pageLines f.page ≤ f.next)) then
    { pixels := Raster.white, error := false, frame := { f with next := f.next + 1 } }
  else
    let g := s.decodeFrom f
    if g.next < g.errorBelow then g.errorLine
    else
      match readLine storeCoding (s.streamBit g.page g.pos) g.pos.offset g.reference with
      | none => { g with errorBelow := 64 * (g.next / 64) + 64 }.errorLine
      | some (x, after) =>
        { pixels := x, error := false,
          frame := { g with next := g.next + 1, pos := s.positionAfter g.pos after, reference := x } }

end Sys2Proof.Machine
end

