-- ==== Sys2Proof/Machine/Print.lean ====
section
/-! DEFINITION. The Print Unit (Chapter 11): the Print Queue, the printing of copies, cuts, paper
loss and through-print. -/

namespace Sys2Proof.Machine

/-! ### The Print Queue (Table 11.1, Section 12.6) -/

/-- The offset of a Print Queue slot. -/
def slotOffset (n : Nat) : Nat := Config.printQueue + 16 * n

/-- The states of a slot (Table 11.1). -/
inductive SlotState where
  | empty | waiting | printing
deriving DecidableEq, Repr

/-- A Print Queue item as its slot holds it (Table 11.1). -/
structure Slot where
  /-- None where the state byte names no state (R181). -/
  state : Option SlotState
  page : Nat
  copies : Nat
  copiesDone : Nat
  urgent : Bool
  auto : Bool
  cancelled : Bool
  entry : Nat
deriving DecidableEq, Repr

/-- The state that a slot's state byte names. -/
def SlotState.ofCode : Nat → Option SlotState
  | 0 => some .empty
  | 1 => some .waiting
  | 2 => some .printing
  | _ => none

/-- The code of a slot state. -/
def SlotState.code : SlotState → Nat
  | .empty => 0
  | .waiting => 1
  | .printing => 2

/-- A slot as DRAM holds it. -/
def State.slot (s : State) (n : Nat) : Slot :=
  let flags := s.byteAt (slotOffset n + 4)
  { state := SlotState.ofCode (s.valueAt (slotOffset n) 1)
    page := s.valueAt (slotOffset n + 1) 1
    copies := s.valueAt (slotOffset n + 2) 1
    copiesDone := s.valueAt (slotOffset n + 3) 1
    urgent := flags.getLsbD 0
    auto := flags.getLsbD 1
    cancelled := flags.getLsbD 2
    entry := s.valueAt (slotOffset n + 8) 4 }

/-- The pieces of a slot's record (Section 12.6), bits 3 to 7 of byte 4 zero (DESIGN CHOICE, log 82). -/
def Slot.pieces (x : Slot) : List (Nat × List Byte) :=
  [(0, [BitVec.ofNat 8 ((x.state.map SlotState.code).getD 0), BitVec.ofNat 8 x.page,
      BitVec.ofNat 8 x.copies, BitVec.ofNat 8 x.copiesDone,
      BitVec.ofNat 8 (flagValue x.urgent + 2 * flagValue x.auto + 4 * flagValue x.cancelled)]),
   (8, leBytes 4 x.entry)]

/-- An EMPTY slot, its other fields zero (R173). -/
def Slot.cleared : Slot :=
  { state := some .empty, page := 0, copies := 0, copiesDone := 0, urgent := false, auto := false,
    cancelled := false, entry := 0 }

/-- A slot written as one burst. -/
def State.setSlot (s : State) (n : Nat) (x : Slot) : State :=
  s.record .printUnit (x.pieces.map (fun p => (slotOffset n + p.1, p.2)))

/-- One item stands ahead of another: URGENT first, then the smaller entry number (R173). -/
def Slot.ahead (x y : Slot) : Bool :=
  (x.urgent && !y.urgent) || (x.urgent == y.urgent && decide (x.entry < y.entry))

/-- The slots that hold a WAITING item. -/
def State.waitingSlots (s : State) : List Nat :=
  (List.range 32).filter (fun n => (s.slot n).state == some .waiting)

/-- The head of the queue: the first WAITING item in queue order (R173), of equal ones that in the lowest slot
(DESIGN CHOICE, log 74). -/
def State.queueHead (s : State) : Option Nat :=
  s.waitingSlots.find? (fun n => s.waitingSlots.all (fun m => m == n || !(s.slot m).ahead (s.slot n)))

/-- The lowest-numbered EMPTY slot (R173). -/
def State.emptySlot (s : State) : Option Nat :=
  (List.range 32).find? (fun n => (s.slot n).state == some .empty)

/-- An item enters the queue in a slot with the entry count as its entry number (R173). -/
def State.enterQueue (s : State) (n p copies : Nat) (urgent auto : Bool) : State :=
  let t := s.setSlot n
    { state := some .waiting, page := p, copies := copies, copiesDone := 0, urgent := urgent,
      auto := auto, cancelled := false, entry := s.print.entryCount }
  { t with print := { t.print with entryCount := min (t.print.entryCount + 1) Config.maxCount } }

/-- An item leaves the queue: its slot EMPTY, its Reference dropped (R173). -/
def State.leaveQueue (s : State) (n : Nat) : State :=
  (s.setSlot n Slot.cleared).dropReference (s.slot n).page

/-- PRINT DONE for the item of a slot: the page, the slot and copies done (R176, R177), with the code CANCELLED
too (R178, R179, R181; DEDUCED, log 89). -/
def State.raisePrintDone (s : State) (p n done code : Nat) : State :=
  s.raise { kind := .printDone, subject := subjectOf p, code := some code, value1 := some n,
            value2 := some done }

/-- PAPER OUT with its value (R179, R180). -/
def State.raisePaperOut (s : State) (v : Nat) : State :=
  s.raise { kind := .paperOut, subject := noSubject, value1 := some v }

/-! ### Copies (R176, R177) -/

/-- PR released (R71). -/
def State.releasePr (s : State) : State := { s with engine := { s.engine with pr := none } }

/-- The Print Unit commands the cutter and enters CUTTING (R177). -/
def State.startCut (s : State) : State :=
  { s with print := { s.print with state := .cutting, buffer := none } }

/-- A copy of the item in a slot begins: PRINTING, PR taken at line 0; a page of 0 lines goes
straight to its cut (R176). The page's record is read in no transfer of its own (DESIGN CHOICE, log 93). -/
def State.beginCopy (s : State) (n : Nat) : State :=
  let p := (s.slot n).page
  let t := s.setSlot n { s.slot n with state := some .printing }
  let u := { t with engine := { t.engine with pr := some (t.decodeStart p) },
                    print := { t.print with state := .printing, current := some n, buffer := none,
                                            paperSteps := 0 } }
  if s.pageLines p = 0 then u.startCut else u

/-- In IDLE the Print Unit takes the head of the queue and begins a copy; an item whose page is
DROPPED is written PRINTING as any head is, leaves unprinted with PR released, and the next head is taken (R176).
The fuel is the number of slots. -/
def State.takeHeadN : Nat → State → State
  | 0, s => s
  | fuel + 1, s =>
    if s.isRunning && s.print.state == .idle then
      match s.queueHead with
      | none => s
      | some n =>
        let x := s.slot n
        if s.pageState x.page = .dropped then
          let t := (s.setSlot n { x with state := some .printing }).releasePr
          State.takeHeadN fuel
            ((t.leaveQueue n).raisePrintDone x.page n x.copiesDone EndCode.dropped.code)
        else s.beginCopy n
    else s

/-- The head of the queue taken (R176). -/
def State.takeHead (s : State) : State := State.takeHeadN 32 s

/-- The Print Unit's copy leaves the head: IDLE and the next head, or PAPER WAIT with PAPER OUT when
paper is absent (R177, R179). -/
def State.afterCut (s : State) : State :=
  let t := { s with print := { s.print with current := none, owner := none, throughEnded := false } }
  if t.print.paper then ({ t with print := { t.print with state := .idle } }).takeHead
  else ({ t with print := { t.print with state := .paperWait } }).raisePaperOut Config.noneWord

/-- The cut completes (R177, R178): copies done rises, and the item leaves the queue with PRINT DONE
or returns to WAITING, in one record transfer of its slot (DESIGN CHOICE, log 88); a through-print's cut concerns
no item (R180). -/
def State.cutComplete (s : State) : State :=
  match s.print.state with
  | .cutting =>
    match s.print.current with
    | none => s.afterCut
    | some n =>
      let x := { s.slot n with copiesDone := (s.slot n).copiesDone + 1 }
      let t := s.releasePr
      if x.cancelled then
        ((t.leaveQueue n).raisePrintDone x.page n x.copiesDone CallOutcome.cancelled.code).afterCut
      else if x.copies ≤ x.copiesDone then
        ((t.leaveQueue n).raisePrintDone x.page n x.copiesDone EndCode.done.code).afterCut
      else (t.setSlot n { x with state := some .waiting }).afterCut
  | _ => s

/-- The even pixels 0, 2, … 1790 of a line, for Chain A, or the odd ones, for Chain B (R176). -/
def chainPixels (x : Raster) (first : Nat) : BitVec 896 :=
  BitVec.ofNat 896 ((List.range 896).foldl (fun acc i => 2 * acc + (x.getMsbD (2 * i + first)).toNat) 0)

/-- A line printed once: both chains shifted, Chain A strobed and then Chain B, and the paper stepped (R176). -/
def lineOnce : List PrintAct := [.shift, .strobeA, .strobeB, .step]

/-- The Print Port's acts for a line, twice over for a DRAFT one (R176). -/
def lineActs (r : Resolution) : List PrintAct := if r = .draft then lineOnce ++ lineOnce else lineOnce

/-- The head burns a line: both chains are shifted and strobed and the paper steps, twice for a DRAFT
line; then the buffer is empty (R176). -/
def State.burn (s : State) (x : Raster) (r : Resolution) : State :=
  { s with print := { s.print with
      chainA := chainPixels x 0
      chainB := chainPixels x 1
      lineActs := lineActs r
      paperSteps := s.print.paperSteps + (lineActs r).count .step
      buffer := none } }

/-- The through-print's last line is printed: the cut when paper is present, PAPER WAIT otherwise
(R180). -/
def State.throughCut (s : State) : State :=
  if s.print.paper then s.startCut
  else { s with print := { s.print with state := .paperWait, buffer := none, owner := none,
                                         throughEnded := false } }

/-- The line in the buffer has been printed (R176 to R178, R180). -/
def State.lineDone (s : State) : State :=
  match s.print.state, s.print.buffer with
  | .printing, some x =>
    match s.print.current with
    | none => s
    | some n =>
      let t := s.burn x (s.pageResolution (s.slot n).page)
      if (s.slot n).cancelled then t.releasePr.startCut
      else
        match s.engine.pr with
        | none => t
        | some f => if s.pageLines f.page ≤ f.next then t.startCut else t
  | .through, some x =>
    let t := s.burn x s.print.throughResolution
    if s.print.throughEnded then t.throughCut else t
  | _, _ => s

/-- PR has work: the buffer is free and the copy has lines left (R73, R176). A copy that a CANCEL PRINT has
stopped holds no PR; an item kept with its cancel mark at a START KEEP stops after its first line (R178;
DESIGN CHOICE, log 75). -/
def State.prHasWork (s : State) : Bool :=
  match s.print.state, s.print.current, s.engine.pr with
  | .printing, some _, some f =>
    s.print.buffer.isNone && decide (f.next < s.pageLines f.page)
  | _, _, _ => false

/-- A grant of PR: the next line of the copy decoded into the head line buffer; a line with the ERROR
mark is printed white (R176). -/
def State.prGrant (s : State) : State :=
  match s.engine.pr with
  | none => s
  | some f =>
    let d := s.decodeNext f
    { s with engine := { s.engine with pr := some d.frame },
             print := { s.print with buffer := some d.pixels } }

/-! ### Cancelling and paper (R178, R179) -/

/-- CANCEL PRINT on a slot that may be cancelled: a WAITING item leaves at once; a PRINTING one is
marked, and its copy stops after the line in progress (R178). The fields of the PRINT DONE are log 89. -/
def State.cancelItem (s : State) (n : Nat) : State :=
  let x := s.slot n
  if x.state = some .waiting then
    (s.leaveQueue n).raisePrintDone x.page n x.copiesDone CallOutcome.cancelled.code
  else
    let t := s.setSlot n { x with cancelled := true }
    if s.print.state = .printing && s.print.buffer.isNone then t.releasePr.startCut else t

/-- The copy in progress is abandoned: PR released, the item back to WAITING, or out of the queue
when it was cancelled (R179, R181). The fields of the PRINT DONE are log 89. -/
def State.abandonCopy (s : State) : State :=
  match s.print.current with
  | none => s
  | some n =>
    let x := s.slot n
    let t := s.releasePr
    let u := if x.cancelled then
        (t.leaveQueue n).raisePrintDone x.page n x.copiesDone CallOutcome.cancelled.code
      else t.setSlot n { x with state := some .waiting }
    { u with print := { u.print with current := none, buffer := none } }

/-- The PAPER input reports a loss (R179, R180). Outside RUNNING only the level is kept (R181). -/
def State.losePaper (s : State) : State :=
  if !s.print.paper then s
  else
    let t := { s with print := { s.print with paper := false } }
    if !s.isRunning then t
    else
      match t.print.state with
      | .idle =>
        ({ t with print := { t.print with state := .paperWait } }).raisePaperOut Config.noneWord
      | .printing =>
        let u := t.abandonCopy
        ({ u with print := { u.print with state := .paperWait } }).raisePaperOut
          (t.print.current.getD Config.noneWord)
      | .cutting => t
      | .paperWait => t
      | .through =>
        if t.print.throughEnded then (t.throughCut).raisePaperOut (ownerValue t.print.owner)
        else
          ({ t with print := { t.print with buffer := none } }).raisePaperOut
            (ownerValue t.print.owner)
where
  /-- The owning line as a notice value. -/
  ownerValue : Option LineNo → Nat
    | some l => l.val
    | none => Config.noneWord

/-- The PAPER input reports a return (R179, R180). -/
def State.returnPaper (s : State) : State :=
  if s.print.paper then s
  else
    let t := { s with print := { s.print with paper := true } }
    if !s.isRunning then t
    else
      match t.print.state with
      | .paperWait => ({ t with print := { t.print with state := .idle } }).takeHead
      | _ => t

/-- When the part becomes RUNNING the unit reads PAPER (R181). -/
def State.readPaper (s : State) : State :=
  if s.print.paper then s.takeHead
  else ({ s with print := { s.print with state := .paperWait } }).raisePaperOut Config.noneWord

/-! ### Through-print (R180) -/

/-- A Line Channel asks for through-print: granted in IDLE only. -/
def State.grantThrough (s : State) (l : LineNo) (r : Resolution) : Option State :=
  if s.isRunning && s.print.state == .idle then
    some { s with print :=
      { s.print with state := .through, owner := some l, buffer := none, throughResolution := r,
                     throughEnded := false, paperSteps := 0 } }
  else none

/-- The Print Unit can take a line of a line's through-print: the buffer is empty (R73, R180). -/
def State.throughReady (s : State) (l : LineNo) : Bool :=
  s.print.state == .through && s.print.owner == some l && s.print.buffer.isNone

/-- A line handed to the through-print: taken into the buffer, and discarded at once while paper is
absent. -/
def State.handThrough (s : State) (x : Raster) : State :=
  if s.print.paper then { s with print := { s.print with buffer := some x } } else s

/-- The through-print of a line ends: the line in the buffer is printed first (R180). -/
def State.endThrough (s : State) (l : LineNo) : State :=
  if s.print.state == .through && s.print.owner == some l then
    if s.print.buffer.isSome then { s with print := { s.print with throughEnded := true } }
    else s.throughCut
  else s

/-! ### Auto-print (R175) -/

/-- A Station Tag stands in a valid Flash List entry, all 20 characters (R175). -/
def State.flashListed (s : State) (tag : Tag) : Bool :=
  (List.range 8).any (fun i =>
    flagOf (s.valueAt (Config.flashList + 32 * i) 1)
      && s.bytesAt (Config.flashList + 32 * i + 4) 10 == tag)

/-- A sealed received page is handed to auto-print while Auto Print is ON: an AUTO item of one copy,
URGENT by the Flash List; nothing where no slot is EMPTY or the count would exceed 251 (R140, R175). -/
def State.autoPrint (s : State) (p : Nat) : State :=
  if !s.print.autoPrint then s
  else
    match s.emptySlot with
    | none => s
    | some n =>
      match s.takeReference p [.sealed] Config.maxReferences with
      | none => s
      | some t => (t.enterQueue n p 1 (s.flashListed (s.pageTag p)) true).takeHead

end Sys2Proof.Machine
end

