-- ==== Sys2Proof/Machine/Charge.lean ====
section
/-! DEFINITION. The Charge Unit (Chapter 10): tariff search, bands, line meters, billing, desk caps,
releases and the Call Log. -/

namespace Sys2Proof.Machine

/-! ### Zones and bands (R157, R158) -/

/-- A tariff entry matches a number: valid, its prefix length at most 16 and at most the number's
length, and its prefix nibbles equal to the number's first ones (R157). -/
def State.tariffMatches (s : State) (i : Nat) (number : List Nibble) : Bool :=
  let off := Config.tariffTable + 16 * i
  let len := s.valueAt (off + 2) 1
  flagOf (s.valueAt off 1) && decide (len ≤ 16) && decide (len ≤ number.length)
    && (nibbles (s.bytesAt (off + 4) 8)).take len == number.take len

/-- The tariff search on a number up to its end mark: from the highest entry down, the first match's
zone and BARRED flag (R157). A zone byte above 15 is taken whole (DESIGN CHOICE, log 66). -/
def State.tariffSearch (s : State) (number : List Nibble) : Option (Nat × Bool) :=
  match (List.range 256).reverse.find? (fun i => s.tariffMatches i (dialledPart number)) with
  | none => none
  | some i =>
    some (s.valueAt (Config.tariffTable + 16 * i + 3) 1,
          flagOf (s.valueAt (Config.tariffTable + 16 * i + 1) 1))

/-- The band in force: the Band Calendar entry of the half hour, above 3 taken as 3 (R158). -/
def State.bandInForce (s : State) : Nat :=
  min (s.valueAt (Config.bandCalendar + 48 * s.time.weekday + s.time.tenths / 18000) 1) 3

/-- The setup charge of a zone, in thousandths: 5 digits after a pad nibble (R158, R182). -/
def State.setupCharge (s : State) (zone : Nat) : Nat :=
  bcdValue ((nibbles (s.bytesAt (Config.zoneBands + 32 * zone) 3)).drop 1)

/-- The unit price of a zone in a band, in thousandths (R158). -/
def State.unitPrice (s : State) (zone band : Nat) : Nat :=
  s.bcdAt (Config.zoneBands + 32 * zone + 4 + 4 * band) 2

/-- The unit interval of a zone in a band, in tenths; 0 is taken as 1 (R158). -/
def State.unitInterval (s : State) (zone band : Nat) : Nat :=
  max (s.bcdAt (Config.zoneBands + 32 * zone + 6 + 4 * band) 2) 1

/-! ### Billing (R163, R164) -/

/-- The basis of a call (R163). -/
def Meter.basis (m : Meter) : Nat := if m.chargePulses && decide (0 < m.pulses) then m.pulseRaw else m.localRaw

/-- The basis used is the pulses (R163). -/
def Meter.basisPulses (m : Meter) : Bool := m.chargePulses && decide (0 < m.pulses)

/-- The billed charge of a basis under a markup, in hundredths, half up (R164). -/
def billed (basis markup : Nat) : Nat := (basis * (1000 + markup) + 5000) / 10000

/-- A raw sum or product held: 99999.999 at most, SATURATED set when it was above (R163). -/
def Meter.withLocal (m : Meter) (v : Nat) : Meter :=
  { m with localRaw := min v Config.maxRaw, saturated := m.saturated || decide (Config.maxRaw < v) }

/-- A pulse counted: pulses rises and pulse raw is pulses times the pulse price (R162, R163). -/
def Meter.withPulse (m : Meter) : Meter :=
  if m.pulses = 65535 then m
  else
    let v := (m.pulses + 1) * m.pulsePrice
    { m with pulses := m.pulses + 1, pulseRaw := min v Config.maxRaw,
             saturated := m.saturated || decide (Config.maxRaw < v) }

/-! ### Desk Accounts (Table 10.4, Section 12.6) -/

/-- The offset of a Desk Account. -/
def deskOffset (d : Nat) : Nat := Config.deskAccounts + 32 * d

/-- What the Charge Unit holds of a desk. -/
def State.desk (s : State) (d : Nat) : DeskHeld := (s.charge.desks[d]?).getD { capped := false, markup := 0 }

/-- A desk's held state and markup replaced. -/
def State.setDesk (s : State) (d : Nat) (x : DeskHeld) : State :=
  { s with charge := { s.charge with desks := s.charge.desks.setIfInBounds d x } }

/-- A desk's total, in hundredths. -/
def State.deskTotal (s : State) (d : Nat) : Nat := s.bcdAt (deskOffset d) 4

/-- A desk's cap, in hundredths; 0 is no cap. -/
def State.deskCap (s : State) (d : Nat) : Nat := s.bcdAt (deskOffset d + 4) 4

/-- Calls logged to a desk. -/
def State.deskCalls (s : State) (d : Nat) : Nat := s.valueAt (deskOffset d + 0x0C) 2

/-- Pages sent by a desk's calls. -/
def State.deskPages (s : State) (d : Nat) : Nat := s.valueAt (deskOffset d + 0x0E) 2

/-- A Desk Account written as one burst, with the held state and markup (Section 12.6). -/
def State.writeDesk (s : State) (d total cap calls pages : Nat) : State :=
  s.record .chargeUnit
    [(deskOffset d, bcd8 total ++ bcd8 cap ++ leBytes 2 (s.desk d).markup
        ++ [BitVec.ofNat 8 (flagValue (s.desk d).capped)]),
     (deskOffset d + 0x0C, leBytes 2 calls ++ leBytes 2 pages)]

/-- The live estimate of a desk: the billed charges so far of its active meters (R165). -/
def State.liveEstimate (s : State) (d : Nat) : Nat :=
  (allLines.map (fun l =>
    let m := s.meterOf l
    if m.active && m.desk == d then billed m.basis (s.desk d).markup else 0)).sum

/-! ### Caps (R165, R166) -/

/-- What the cap entry of a desk does to one line charged to it: nothing, the mark cap pending, or a
CAP ENDED clear order given at once (R166). -/
def State.capLine (s : State) (d : Nat) (l : LineNo) : State :=
  let m := s.meterOf l
  if m.active && m.desk == d then
    match (s.line l).state with
    | .seized | .dialling | .alerting =>
      { s with charge := { s.charge with orders := s.charge.orders ++ [l] } }
    | .linked =>
      if m.pageInProgress then s.setMeter l { m with capPending := true }
      else { s with charge := { s.charge with orders := s.charge.orders ++ [l] } }
    | _ => s
  else s

/-- A desk enters CAPPED: its account written, DESK CAPPED raised, its lines acted on (R165), in ascending
line number (DESIGN CHOICE, log 71). -/
def State.enterCapped (s : State) (d : Nat) : State :=
  let t := s.setDesk d { s.desk d with capped := true }
  let u := t.writeDesk d (s.deskTotal d) (s.deskCap d) (s.deskCalls d) (s.deskPages d)
  let v := u.raise { kind := .deskCapped, subject := subjectOf d,
                     value1 := some (bcdWord (s.deskTotal d)),
                     value2 := some (bcdWord (s.liveEstimate d)) }
  allLines.foldl (fun x l => x.capLine d l) v

/-- Total and live estimate together reach a cap that is not 0 (R165). -/
def State.capReached (s : State) (d : Nat) : Bool :=
  s.deskCap d != 0 && decide (s.deskCap d ≤ s.deskTotal d + s.liveEstimate d)

/-- The Charge Unit checks a desk's cap: it reads the Desk Account of an OPEN desk, which enters CAPPED when
the cap is reached (R13, R165). -/
def State.checkCap (s : State) (d : Nat) : State :=
  if (s.desk d).capped then s
  else if s.capReached d then (s.readRecord .chargeUnit).enterCapped d
  else s.readRecord .chargeUnit

/-! ### The line meter (R159 to R162) -/

/-- The offset of a Destination entry. -/
def destinationOffset (j d : Nat) : Nat := Config.destinations + 32 * (48 * j + d)

/-- A seizure handed over: the meter made active with the call's facts and the destination's zone;
a CAPPED desk's call is ordered clear at once (R159). -/
def State.startMeter (s : State) (l : LineNo) (job destination desk : Nat) (c : LineConfig) : State :=
  let t := s.setMeter l
    { Meter.cleared with
      active := true
      job := job
      destination := destination
      desk := desk
      zone := s.valueAt (destinationOffset job destination + 0x11) 1
      chargePulses := c.chargePulses
      pulsePrice := c.pulsePrice
      seizure := s.now }
  if (s.desk desk).capped then { t with charge := { t.charge with orders := t.charge.orders ++ [l] } }
  else t

/-- A new unit starts, priced and timed by the band in force, from a Run Clock time (R160, R161): the
Charge Unit reads the Band Calendar and the Zone Band Table as records (R13, Section 10.1). -/
def State.startUnit (s : State) (l : LineNo) (from_ : BitVec 32) : State :=
  let m := s.meterOf l
  let b := s.bandInForce
  let n := { m.withLocal (m.localRaw + s.unitPrice m.zone b) with
             units := min (m.units + 1) 65535,
             nextUnit := some (from_ + BitVec.ofNat 32 (s.unitInterval m.zone b)) }
  ((s.readRecord .chargeUnit).setMeter l n).checkCap m.desk

/-- The connect mark of an active meter: setup charge and first unit (R160). -/
def State.connectMeter (s : State) (l : LineNo) : State :=
  let m := s.meterOf l
  if m.active && m.connect.isNone then
    (s.setMeter l { m.withLocal (s.setupCharge m.zone) with connect := some s.now }).startUnit l
      s.time.runClock
  else s

/-- The next unit of an active, connected meter is due (R161). -/
def State.unitDue (s : State) (l : LineNo) : Bool :=
  match (s.meterOf l).nextUnit with
  | some t => (s.meterOf l).active && s.reached t
  | none => false

/-- A unit expires: a new unit starts when the last one ends (R161). -/
def State.expireUnit (s : State) (l : LineNo) : State :=
  match (s.meterOf l).nextUnit with
  | some t => if s.unitDue l then s.startUnit l t else s
  | none => s

/-- A metering pulse of an active meter (R162). -/
def State.countPulse (s : State) (l : LineNo) : State :=
  let m := s.meterOf l
  if m.active then (s.setMeter l m.withPulse).checkCap m.desk else s

/-- The caller has begun a page (R130, R166). -/
def State.meterPageBegun (s : State) (l : LineNo) : State :=
  s.setMeter l { s.meterOf l with pageInProgress := true }

/-- The caller has taken the page's verdict: whether the CAP ENDED order owed is now given (R166). -/
def State.meterVerdict (s : State) (l : LineNo) : State × Bool :=
  (s.setMeter l { s.meterOf l with pageInProgress := false, capPending := false },
   (s.meterOf l).capPending)

/-! ### The Call Log (R167, R169, R170) -/

/-- What the Line Channel hands over at hook-on (R120, R169). -/
structure ReleaseFacts where
  line : LineNo
  outcome : CallOutcome
  confirmed : Nat
  resent : Nat
  tag : Tag
deriving DecidableEq, Repr

/-- A Call Log record's bytes (Table 12.8). Pages confirmed and pages resent above 255 are written by their low
8 bits (DESIGN CHOICE, log 67), and bits 5 to 7 of byte 4 as zero (DESIGN CHOICE, log 82). -/
def callRecord (sequence line : Nat) (outgoing basisPulses saturated : Bool)
    (desk job destination zone outcome markup : Nat) (number : List Byte)
    (seizure connect release units pulses : Nat) (localRaw pulseRaw bill : Nat)
    (confirmed resent : Nat) (tag : Tag) : List Byte :=
  leBytes 4 sequence
    ++ [BitVec.ofNat 8 (line + 4 * flagValue outgoing + 8 * flagValue basisPulses
          + 16 * flagValue saturated),
        BitVec.ofNat 8 desk, BitVec.ofNat 8 job, BitVec.ofNat 8 destination, BitVec.ofNat 8 zone,
        BitVec.ofNat 8 outcome]
    ++ leBytes 2 markup ++ number ++ leBytes 4 seizure ++ leBytes 4 connect ++ leBytes 4 release
    ++ leBytes 2 units ++ leBytes 2 pulses ++ bcd8 localRaw ++ bcd8 pulseRaw ++ bcd8 bill
    ++ [BitVec.ofNat 8 confirmed, BitVec.ofNat 8 resent] ++ tag

/-- A record written into slot sequence mod 256, and the sequence count risen (R169). -/
def State.writeLog (s : State) (bytes : List Byte) : State :=
  let t := s.record .chargeUnit [(Config.callLog + 64 * (s.charge.sequence.toNat % 256), bytes)]
  { t with charge := { t.charge with sequence := t.charge.sequence + 1 } }

/-- The time word of a connect mark, zero where none was made. -/
def connectWord : Option Stamp → Nat
  | some t => t.word
  | none => 0

/-- The release of an outgoing call (R167): the meter stopped, the call billed and logged, the charge
added to the desk, the meter made inactive and the cap checked. Its sequence is the count before. -/
def State.releaseOutgoing (s : State) (x : ReleaseFacts) (number : List Nibble) : State :=
  let m := s.meterOf x.line
  let d := m.desk
  let bill := billed m.basis (s.desk d).markup
  let t := s.writeLog (callRecord s.charge.sequence.toNat x.line.val true m.basisPulses m.saturated
    d m.job m.destination m.zone x.outcome.code (s.desk d).markup (packNibbles number)
    m.seizure.word (connectWord m.connect) s.timeOfDay m.units m.pulses m.localRaw m.pulseRaw bill
    x.confirmed x.resent x.tag)
  let u := t.writeDesk d (min (s.deskTotal d + bill) Config.maxBcd8) (s.deskCap d)
    (min (s.deskCalls d + 1) 65535) (min (s.deskPages d + x.confirmed) 65535)
  (u.setMeter x.line { m with active := false, nextUnit := none, capPending := false,
                              pageInProgress := false }).checkCap d

/-- The release of an incoming call: logged with no desk, job, destination, number or charge (R170). -/
def State.releaseIncoming (s : State) (x : ReleaseFacts) (seizure : Stamp) (connect : Option Stamp) :
    State :=
  s.writeLog (callRecord s.charge.sequence.toNat x.line.val false false false Config.noneByte
    Config.noneByte Config.noneByte Config.noneByte x.outcome.code 0 (List.replicate 12 0xFF)
    seizure.word (connectWord connect) s.timeOfDay 0 0 0 0 0 x.confirmed x.resent x.tag)

/-- A glare ends the outgoing attempt: the meter is made inactive and its values discarded (R170). -/
def State.discardMeter (s : State) (l : LineNo) : State := s.setMeter l Meter.cleared

/-! ### SETTLE DESK (R168) -/

/-- Cap pending cleared on every line of a desk (R168). -/
def State.clearCapPending (s : State) (d : Nat) : State :=
  allLines.foldl (fun t l =>
    let m := t.meterOf l
    if m.active && m.desk == d then t.setMeter l { m with capPending := false } else t) s

/-- SETTLE DESK carried out on a desk (R168): the cap and markup set, the figures cleared when asked,
and the state set afresh. -/
def State.settleDesk (s : State) (d cap markup : Nat) (clear : Bool) : State :=
  let was := (s.desk d).capped
  let total := if clear then 0 else s.deskTotal d
  let calls := if clear then 0 else s.deskCalls d
  let pages := if clear then 0 else s.deskPages d
  let t := s.setDesk d { capped := was, markup := markup }
  let reached := cap != 0 && decide (cap ≤ total + t.liveEstimate d)
  if reached then
    let u := t.writeDesk d total cap calls pages
    if was then u else u.enterCapped d
  else
    let u := if was then t.clearCapPending d else t
    (u.setDesk d { capped := false, markup := markup }).writeDesk d total cap calls pages

end Sys2Proof.Machine
end

