-- ==== Sys2Proof/Machine/Dispatcher.lean ====
section
/-! DEFINITION. The Dispatcher's records and work on them (Chapter 9): jobs, destinations,
submission, the application of outcomes, completion and cancelling. -/

namespace Sys2Proof.Machine

/-! ### The host half of a job (Table 9.1, Section 12.5) -/

/-- The offset of a job's host half. -/
def jobOffset (j : Nat) : Nat := Config.sendJobs + 32 * j

/-- A field of the first word of a job's host half: n bits from bit i. -/
def State.jobField (s : State) (j i n : Nat) : Nat := s.valueAt (jobOffset j) 4 / 2 ^ i % 2 ^ n

/-- Desk of a job. -/
def State.jobDesk (s : State) (j : Nat) : Nat := s.jobField j 0 5

/-- URGENT. -/
def State.jobUrgent (s : State) (j : Nat) : Bool := s.jobField j 5 1 == 1

/-- Cheap ceiling: 0 to 3, or 15 for NONE. -/
def State.jobCeiling (s : State) (j : Nat) : Nat := s.jobField j 6 4

/-- The greatest number of counted attempts per destination. -/
def State.jobAttempts (s : State) (j : Nat) : Nat := s.jobField j 10 4

/-- Retry gap in minutes. -/
def State.jobGap (s : State) (j : Nat) : Nat := s.jobField j 14 6

/-- Page count. -/
def State.jobPageCount (s : State) (j : Nat) : Nat := s.jobField j 20 6

/-- Destination count. -/
def State.jobDestinations (s : State) (j : Nat) : Nat := s.jobField j 26 6

/-- Entry i of a job's page list: bits 7i to 7i + 6 of bytes 0x04 to 0x1F. -/
def State.jobPage (s : State) (j i : Nat) : Nat := s.valueAt (jobOffset j + 4) 28 / 2 ^ (7 * i) % 128

/-- A job's page list within its page count, of 32 entries at most (log 79). -/
def State.jobPages (s : State) (j : Nat) : List Nat :=
  (List.range (min (s.jobPageCount j) 32)).map (s.jobPage j)

/-! ### Job Status (Table 9.2, Section 12.5) -/

/-- The states of a job. -/
inductive JobState where
  | empty | queued | done
deriving DecidableEq, Repr

/-- The code of a job state. -/
def JobState.code : JobState → Nat
  | .empty => 0
  | .queued => 1
  | .done => 2

/-- The job state that a code names. -/
def JobState.ofCode : Nat → Option JobState
  | 0 => some .empty
  | 1 => some .queued
  | 2 => some .done
  | _ => none

/-- A Job Status as DRAM holds it; a state that names none is taken as DONE (R156). -/
structure JobStatus where
  state : JobState
  cancelling : Bool
  sent : Nat
  failed : Nat
  cancelled : Nat
  number : Nat
deriving DecidableEq, Repr

/-- The offset of a Job Status. -/
def statusOffset (j : Nat) : Nat := Config.jobStatuses + 32 * j

/-- A job's status. -/
def State.job (s : State) (j : Nat) : JobStatus :=
  { state := (JobState.ofCode (s.valueAt (statusOffset j) 1)).getD .done
    cancelling := flagOf (s.valueAt (statusOffset j + 1) 1)
    sent := s.valueAt (statusOffset j + 2) 1
    failed := s.valueAt (statusOffset j + 3) 1
    cancelled := s.valueAt (statusOffset j + 4) 1
    number := s.valueAt (statusOffset j + 8) 4 }

/-- The pieces of a Job Status record. -/
def JobStatus.pieces (x : JobStatus) (j : Nat) : List (Nat × List Byte) :=
  [(statusOffset j, [BitVec.ofNat 8 x.state.code, BitVec.ofNat 8 (flagValue x.cancelling),
      BitVec.ofNat 8 x.sent, BitVec.ofNat 8 x.failed, BitVec.ofNat 8 x.cancelled]),
   (statusOffset j + 8, leBytes 4 x.number)]

/-- A Job Status written as one burst (R143). -/
def State.setJob (s : State) (j : Nat) (x : JobStatus) : State := s.record .dispatcher (x.pieces j)

/-! ### Destinations (Table 9.3, Table 12.7) -/

/-- The states of a destination. -/
inductive DestinationState where
  | pending | calling | sent | failed | barred | invalid | cancelled
deriving DecidableEq, Repr

/-- The code of a destination state. -/
def DestinationState.code : DestinationState → Nat
  | .pending => 0
  | .calling => 1
  | .sent => 2
  | .failed => 3
  | .barred => 4
  | .invalid => 5
  | .cancelled => 6

/-- The destination state that a code names. -/
def DestinationState.ofCode : Nat → Option DestinationState
  | 0 => some .pending
  | 1 => some .calling
  | 2 => some .sent
  | 3 => some .failed
  | 4 => some .barred
  | 5 => some .invalid
  | 6 => some .cancelled
  | _ => none

/-- The part half of a Destination entry. A state that names none is taken as CANCELLED (R156). -/
structure Destination where
  state : DestinationState
  zone : Nat
  used : Nat
  startRate : Nat
  lastOutcome : Nat
  nextTry : Nat
  confirmed : Nat
  resent : Nat
  resume : Nat
  line : Nat
  sequence : Option Nat
deriving DecidableEq, Repr

/-- The part half of a job's destination as DRAM holds it. -/
def State.destination (s : State) (j d : Nat) : Destination :=
  let off := destinationOffset j d
  { state := (DestinationState.ofCode (s.valueAt (off + 0x10) 1 % 16)).getD .cancelled
    zone := s.valueAt (off + 0x11) 1
    used := s.valueAt (off + 0x12) 1 % 16
    startRate := s.valueAt (off + 0x12) 1 / 16
    lastOutcome := s.valueAt (off + 0x13) 1
    nextTry := s.valueAt (off + 0x14) 4
    confirmed := s.valueAt (off + 0x18) 1
    resent := s.valueAt (off + 0x19) 1
    resume := s.valueAt (off + 0x1A) 1
    line := s.valueAt (off + 0x1B) 1
    sequence := if (s.byteAt (off + 0x10)).getLsbD 7 then some (s.valueAt (off + 0x1C) 4) else none }

/-- The 16 bytes of a destination's part half (Table 12.7), bits 4 to 6 of the first zero (DESIGN CHOICE, log
82). -/
def Destination.bytes (x : Destination) : List Byte :=
  [BitVec.ofNat 8 (x.state.code + 128 * flagValue x.sequence.isSome), BitVec.ofNat 8 x.zone,
   BitVec.ofNat 8 (x.used % 16 + 16 * x.startRate), BitVec.ofNat 8 x.lastOutcome]
  ++ leBytes 4 x.nextTry
  ++ [BitVec.ofNat 8 x.confirmed, BitVec.ofNat 8 x.resent, BitVec.ofNat 8 x.resume,
      BitVec.ofNat 8 x.line]
  ++ leBytes 4 (x.sequence.getD Config.noneWord)

/-- A destination's part half written as one burst (R144). -/
def State.setDestination (s : State) (j d : Nat) (x : Destination) : State :=
  s.record .dispatcher [(destinationOffset j d + 0x10, x.bytes)]

/-- The 24 nibbles of a destination's number (R144). -/
def State.number (s : State) (j d : Nat) : List Nibble := nibbles (s.bytesAt (destinationOffset j d) 12)

/-- The indices of a job's destinations in use, 48 at most (log 79). -/
def State.destinationsOf (s : State) (j : Nat) : List Nat := List.range (min (s.jobDestinations j) 48)

/-- How many of a job's destinations are in one of the given states. -/
def State.countIn (s : State) (j : Nat) (states : List DestinationState) : Nat :=
  (s.destinationsOf j).countP (fun d => states.contains (s.destination j d).state)

/-- A Job Status with its counts equal to the numbers of its destinations in those states (R143). -/
def State.counted (s : State) (j : Nat) (x : JobStatus) : JobStatus :=
  { x with sent := s.countIn j [.sent], failed := s.countIn j [.failed, .barred, .invalid],
           cancelled := s.countIn j [.cancelled] }

/-! ### Completion (R154) -/

/-- JOB DONE for a job with its counts (R154, Section 12.3). -/
def State.raiseJobDone (s : State) (j : Nat) : State :=
  let x := s.job j
  s.raise { kind := .jobDone, subject := subjectOf j, value1 := some x.sent,
            value2 := some (x.failed + 65536 * x.cancelled) }

/-- A QUEUED job becomes DONE: its References dropped, its place in the submit list given up, its
status written and JOB DONE raised (R154). The References go in the order of the page list, each page freed as
its count reaches 0 (DESIGN CHOICE, log 85). -/
def State.finishJob (s : State) (j : Nat) : State :=
  let t := (s.jobPages j).foldl State.dropReference s
  let u := { t with dispatcher := { t.dispatcher with
    submitList := t.dispatcher.submitList.filter (fun k => k != j) } }
  (u.setJob j { u.job j with state := .done }).raiseJobDone j

/-- The completion check: a QUEUED job with no destination PENDING or CALLING is finished (R154). -/
def State.checkComplete (s : State) (j : Nat) : State :=
  if (s.job j).state = .queued && s.countIn j [.pending, .calling] == 0 then s.finishJob j else s

/-! ### Outcomes (R151, R152) -/

/-- What a Line Channel hands the Dispatcher at the end of an attempt (R132, R152). -/
structure AttemptEnd where
  outcome : CallOutcome
  confirmed : Nat
  resent : Nat
  /-- Rate class in force; none when the call ended before LINKED. -/
  rate : Option Nat
  /-- Call Log sequence; none for a glare. -/
  sequence : Option Nat
deriving DecidableEq, Repr

/-- A counted outcome (Table 9.4). -/
def CallOutcome.counted : CallOutcome → Bool
  | .busy | .noAnswer | .noTone | .timeout | .lineDropped | .partly | .failedRate => true
  | .sent | .refused | .lineTaken | .capEnded | .aborted | .cancelled | .received => false

/-- An outcome that confirms its pages at the destination (R152). -/
def CallOutcome.confirms : CallOutcome → Bool
  | .sent | .partly | .capEnded => true
  | .refused | .busy | .noAnswer | .noTone | .timeout | .lineDropped | .failedRate | .lineTaken
  | .aborted | .cancelled | .received => false

/-- An outcome that replaces the Attempt Image (R151). -/
def CallOutcome.moves : CallOutcome → Bool
  | .partly | .capEnded => true
  | .sent | .refused | .busy | .noAnswer | .noTone | .timeout | .lineDropped | .failedRate
  | .lineTaken | .aborted | .cancelled | .received => false

/-- The state of Table 9.4 after an outcome, with the attempts used after it. -/
def stateAfter (o : CallOutcome) (used attempts : Nat) : DestinationState :=
  match o with
  | .sent => .sent
  | .refused => .failed
  | .cancelled => .cancelled
  | .lineTaken | .capEnded | .aborted | .received => .pending
  | .busy | .noAnswer | .noTone | .timeout | .lineDropped | .partly | .failedRate =>
    if attempts ≤ used then .failed else .pending

/-- A destination after an attempt's end (R151, R152): `now` is the Run Clock, `gap` the retry gap
in minutes. -/
def Destination.after (x : Destination) (e : AttemptEnd) (cancelling : Bool) (attempts gap : Nat)
    (now : BitVec 32) : Destination :=
  let used := if e.outcome.counted then x.used + 1 else x.used
  { state := if cancelling && e.outcome != .sent then .cancelled else stateAfter e.outcome used attempts
    zone := x.zone
    used := used
    startRate := if e.outcome.moves then e.rate.getD x.startRate else x.startRate
    lastOutcome := e.outcome.code
    nextTry := if e.outcome.counted then (now + BitVec.ofNat 32 (600 * gap)).toNat else x.nextTry
    confirmed := if e.outcome.confirms then x.confirmed + e.confirmed else x.confirmed
    resent := min (x.resent + e.resent) 255
    resume := if e.outcome.moves then x.resume + e.confirmed else x.resume
    line := Config.noneByte
    sequence := match e.sequence with
      | some n => some n
      | none => x.sequence }

/-- The Dispatcher applies an attempt's end to its destination (R152); an end state is counted and
reported, and the completion check follows (R154). DESTINATION ENDED carries the destination's own pages
confirmed and attempts used after the outcome (DEDUCED, log 87). A destination that is PENDING again changes no
count, and the Job Status is not written for it (DESIGN CHOICE, log 91). -/
def State.applyOutcome (s : State) (j d : Nat) (e : AttemptEnd) : State :=
  let x := (s.destination j d).after e (s.job j).cancelling (s.jobAttempts j) (s.jobGap j)
    s.time.runClock
  let t := s.setDestination j d x
  let u := if x.state = .pending then t
    else (t.setJob j (t.counted j (t.job j))).raise
      { kind := .destinationEnded, code := some e.outcome.code,
        subject := [BitVec.ofNat 8 j, BitVec.ofNat 8 d],
        value1 := some x.confirmed, value2 := some x.used }
  u.checkComplete j

/-! ### SUBMIT SEND (R145, R146) -/

/-- The fields of a job's host half are within Table 9.1 (R145, check 3; the desk's five bits cannot
be above 31). -/
def State.jobFieldsGood (s : State) (j : Nat) : Bool :=
  (decide (s.jobCeiling j ≤ 3) || s.jobCeiling j == 15)
    && decide (1 ≤ s.jobAttempts j) && decide (s.jobAttempts j ≤ 9)
    && decide (1 ≤ s.jobGap j) && decide (s.jobGap j ≤ 60)
    && decide (1 ≤ s.jobPageCount j) && decide (s.jobPageCount j ≤ 32)
    && decide (1 ≤ s.jobDestinations j) && decide (s.jobDestinations j ≤ 48)

/-- The checks of SUBMIT SEND, in order (R145). -/
def State.submitResult (s : State) (j : Nat) : Result :=
  if 15 < j then .argument
  else if (s.job j).state = .queued then .state
  else if !s.jobFieldsGood j then .argument
  else if (s.jobPages j).any (fun p => s.pageState p != .sealed) then .noPage
  else if (s.jobPages j).any
      (fun p => decide (Config.maxReferences < s.references p + (s.jobPages j).count p)) then .full
  else .ok

/-- A destination's part half as a submission writes it: INVALID, BARRED, or PENDING with its zone
(R146). -/
def State.freshDestination (s : State) (j d : Nat) : Destination :=
  let n := s.number j d
  let found : DestinationState × Nat :=
    if !hasDigit n then (.invalid, Config.noneByte)
    else
      match s.tariffSearch n with
      | some (zone, false) => (.pending, zone)
      | _ => (.barred, Config.noneByte)
  { state := found.1, zone := found.2, used := 0, startRate := 4, lastOutcome := Config.noneByte,
    nextTry := 0, confirmed := 0, resent := 0, resume := 0, line := Config.noneByte, sequence := none }

/-- One Reference taken for an entry of an accepted job's page list (R146). -/
def State.listReference (s : State) (p : Nat) : State :=
  (s.takeReference p [.sealed] Config.maxReferences).getD s

/-- An accepted submission (R146): the destinations written, the References taken, the status
written; the look that follows is made pending. -/
def State.submit (s : State) (j : Nat) : State :=
  let t := (s.destinationsOf j).foldl (fun u d => u.setDestination j d (u.freshDestination j d)) s
  let pending := t.countIn j [.pending] != 0
  let u := if pending then (t.jobPages j).foldl State.listReference t else t
  let x : JobStatus := u.counted j
    { state := if pending then .queued else .done, cancelling := false, sent := 0, failed := 0,
      cancelled := 0, number := u.dispatcher.submitCount }
  let v := u.setJob j x
  let w := { v with dispatcher := { v.dispatcher with
    submitCount := min (v.dispatcher.submitCount + 1) Config.maxCount
    submitList := if pending then v.dispatcher.submitList ++ [j] else v.dispatcher.submitList
    lookPending := true } }
  if pending then w else w.raiseJobDone j

/-! ### CANCEL SEND (R153) -/

/-- The check of CANCEL SEND. -/
def State.cancelResult (s : State) (j : Nat) : Result :=
  if 15 < j then .argument
  else if (s.job j).state ≠ .queued || (s.job j).cancelling then .state
  else .ok

/-- Every PENDING destination of the job becomes CANCELLED (R153). -/
def State.cancelPending (s : State) (j : Nat) : State :=
  (s.destinationsOf j).foldl (fun t d =>
    if (t.destination j d).state = .pending then
      t.setDestination j d { t.destination j d with state := .cancelled }
    else t) s

/-- The lines of a job's CALLING destinations (R153). They take their clear orders in destination order
(DESIGN CHOICE, log 71). -/
def State.callingLines (s : State) (j : Nat) : List LineNo :=
  (s.destinationsOf j).filterMap (fun d =>
    if (s.destination j d).state = .calling then
      allLines.find? (fun l => (s.destination j d).line == l.val)
    else none)

/-- CANCEL SEND carried out on the records: CANCELLING set, the PENDING destinations cancelled, the
counts updated, and the job completed when no destination is CALLING (R153). -/
def State.cancelJob (s : State) (j : Nat) : State :=
  let t := s.cancelPending j
  (t.setJob j (t.counted j { t.job j with cancelling := true })).checkComplete j

/-! ### Eligibility (R148) -/

/-- The numbers of the outgoing calls in progress, from seizure to hook-on (R148). -/
def State.numbersInCalls (s : State) : List (List Nibble) :=
  allLines.filterMap (fun l =>
    match (s.line l).call with
    | some c => c.out.map (fun o => dialledPart o.number)
    | none => none)

/-- A destination of a job may be dialled now: the six conditions of R148. -/
def State.eligible (s : State) (j d : Nat) : Bool :=
  let x := s.destination j d
  (x.state == .pending)
    && !(s.numbersInCalls.contains (dialledPart (s.number j d)))
    && decide (x.nextTry ≤ s.time.runClock.toNat)
    && !(s.desk (s.jobDesk j)).capped
    && (s.jobCeiling j == 15 || decide (s.bandInForce ≤ s.jobCeiling j))
    && (s.job j).state == .queued && !(s.job j).cancelling

/-- The first eligible destination of a job, in index order (R149). -/
def State.firstEligible (s : State) (j : Nat) : Option (Nat × Nat) :=
  ((s.destinationsOf j).find? (s.eligible j)).map (fun d => (j, d))

/-- The destination a choice takes: URGENT jobs first, then submit-list order (R149). -/
def State.chosenDestination (s : State) : Option (Nat × Nat) :=
  ((s.dispatcher.submitList.filter s.jobUrgent)
    ++ (s.dispatcher.submitList.filter (fun j => !s.jobUrgent j))).findSome? s.firstEligible

end Sys2Proof.Machine
end

