-- ==== Sys2Proof/Machine/Lines.lean ====
section
/-! DEFINITION. The Line Channels (Chapter 7): line configuration, the Line Record, dialling,
answering, glare, the fixing of an outcome, hook-on, clear orders and the end of a line's work in a
step. -/

namespace Sys2Proof.Machine

/-! ### Line configuration (R105) -/

/-- The prefix nibbles of an entry: up to the first E or F, at most 8 (R105). -/
def prefixNibbles (bytes : List Byte) : List Nibble := dialledPart (nibbles bytes)

/-- The answer timeout taken from its byte (R105). -/
def answerSeconds (v : Nat) : Nat :=
  if v = 0 then 45 else if v < 20 then 20 else min v 90

/-- A line's Line Config entry as it is taken (R105, Section 12.6). -/
def State.lineConfigAt (s : State) (l : LineNo) : LineConfig :=
  let off := Config.lineConfigs + 64 * l.val
  { direction := match s.valueAt off 1 with
      | 1 => .outgoing
      | 2 => .both
      | _ => .incoming
    pulse := s.valueAt (off + 1) 1 == 1
    dialPrefix := prefixNibbles (s.bytesAt (off + 0x10) 4)
    blind := s.valueAt (off + 2) 1 == 1
    answerRings := min (s.valueAt (off + 3) 1) 9
    answerSeconds := answerSeconds (s.valueAt (off + 4) 1)
    reversalSupervision := s.valueAt (off + 5) 1 == 1
    chargePulses := s.valueAt (off + 6) 1 == 1
    pulsePrice := s.bcdAt (off + 8) 2 }

/-- A Line Channel reads its whole entry back, as one record, and replaces its held copy (R105, R13). -/
def State.loadLineConfig (s : State) (l : LineNo) : State :=
  (s.readRecord (.lineChannel l)).setLine l { s.line l with held := s.lineConfigAt l }

/-! ### The Line Record (R123, Section 12.6) -/

/-- The code of a line state. -/
def LineState.code : LineState → Nat
  | .idle => 0
  | .ringing => 1
  | .seized => 2
  | .dialling => 3
  | .alerting => 4
  | .linked => 5
  | .clearing => 6
  | .resting => 7

/-- The code of a link phase. -/
def Phase.code : Phase → Nat
  | .awaitOffer => 0
  | .choosing => 1
  | .checkingCaller => 2
  | .awaitReady => 3
  | .sending => 4
  | .awaitVerdict => 5
  | .tone => 6
  | .offering => 7
  | .checkingAnswerer => 8
  | .receiving => 9
  | .finishing => 10

/-- The code of a coding: 0 for PLAIN, K for REFERENCE K. -/
def Coding.code : Coding → Nat
  | .plain => 0
  | .reference k => k

/-- A byte field that may be NONE. -/
def byteOr (v : Option Nat) : Byte := BitVec.ofNat 8 (v.getD Config.noneByte)

/-- The direction field of a Line Record: 0 IN, 1 OUT, or NONE. -/
def LineChannel.directionCode (x : LineChannel) : Option Nat :=
  x.call.map (fun c => if c.out.isSome then 1 else 0)

/-- The link phase field: the phase, or NONE outside LINKED (R123). -/
def LineChannel.phaseCode (x : LineChannel) : Option Nat :=
  if x.state = .linked then x.link.map (fun k => k.phase.code) else none

/-- The facts of the outgoing call in progress. -/
def LineChannel.outgoing (x : LineChannel) : Option OutgoingFacts :=
  match x.call with
  | some c => c.out
  | none => none

/-- The 64 bytes of a line's record (Table 7.4, Section 12.6). The rate class is the one in force, and an
answerer's coding stands from CHECK GOOD on (DESIGN CHOICE, log 55). Pages done above 65535 are written by
their low 16 bits (DESIGN CHOICE, log 78). -/
def State.lineRecord (s : State) (l : LineNo) : List Byte :=
  let x := s.line l
  let m := if (s.meterOf l).active then s.meterOf l else Meter.cleared
  [BitVec.ofNat 8 x.state.code, byteOr x.directionCode,
   BitVec.ofNat 8 (match x.call with
     | some c => c.rings
     | none => 0),
   byteOr x.phaseCode, byteOr (x.outgoing.map (fun o => o.job)),
   byteOr (x.outgoing.map (fun o => o.destination)), byteOr (x.outgoing.map (fun o => o.desk)),
   byteOr (x.link.bind (fun k => k.rate)), byteOr (x.link.bind (fun k => k.coding.map Coding.code)), 0]
  ++ leBytes 2 (match x.link with
     | some k => k.done
     | none => 0)
  ++ (match x.outgoing with
     | some o => packNibbles o.number
     | none => List.replicate 12 0xFF)
  ++ leBytes 4 (connectWord (x.call.bind (fun c => c.connect)))
  ++ leBytes 2 m.units ++ leBytes 2 m.pulses ++ bcd8 m.localRaw ++ bcd8 m.pulseRaw
  ++ List.replicate 24 0

/-- The offset of a Line Record. -/
def lineRecordOffset (l : LineNo) : Nat := Config.lineRecords + 64 * l.val

/-- A line's record written as one burst when one of its fields has changed (R123); not in PASS. -/
def State.syncLine (s : State) (l : LineNo) : State :=
  if s.path.state = .pass || s.bytesAt (lineRecordOffset l) 64 = s.lineRecord l then s
  else s.record (.lineChannel l) [(lineRecordOffset l, s.lineRecord l)]

/-- All four Line Records brought up to date. -/
def State.syncLines (s : State) : State := allLines.foldl State.syncLine s

/-! ### Timers, the hook and the pump -/

/-- The line timer set: one expiry at a time (Section 7.3). -/
def State.setTimer (s : State) (l : LineNo) (kind : TimerKind) (ms : Nat) : State :=
  s.setLine l { s.line l with timer := some { kind := kind, ms := ms } }

/-- The line timer cancelled. -/
def State.stopTimer (s : State) (l : LineNo) : State := s.setLine l { s.line l with timer := none }

/-- The line's timer runs for the given purpose. -/
def State.timerIs (s : State) (l : LineNo) (kind : TimerKind) : Bool :=
  match (s.line l).timer with
  | some t => t.kind == kind
  | none => false

/-- The hook put off: 0.5 s are allowed for loop current to appear (R118). -/
def State.hookOff (s : State) (l : LineNo) : State :=
  s.setLine l { s.line l with offHook := true, settling := true }

/-- A line's state changed. -/
def State.setLineState (s : State) (l : LineNo) (x : LineState) : State :=
  s.setLine l { s.line l with state := x }

/-- The facts of a line's call replaced. -/
def State.setCall (s : State) (l : LineNo) (c : Option Call) : State :=
  s.setLine l { s.line l with call := c }

/-- A line's link state replaced. -/
def State.setLink (s : State) (l : LineNo) (k : Option Link) : State :=
  s.setLine l { s.line l with link := k }

/-- A line's link state changed in place. -/
def State.onLink (s : State) (l : LineNo) (f : Link → Link) : State :=
  s.setLink l ((s.line l).link.map f)

/-- A command other than a send or a listen given to the pump (R112, R116). -/
def State.command (s : State) (l : LineNo) (c : PumpCommand) : State :=
  s.setLine l { s.line l with pump := { (s.line l).pump with command := some c } }

/-- A send command given to the pump: it ends the listening in force (R124). -/
def State.send (s : State) (l : LineNo) (c : PumpCommand) : State :=
  s.setLine l { s.line l with pump :=
    { (s.line l).pump with command := some c, sending := some c, listen := none } }

/-- A listen command given to the pump: in force until the next send command (R124). -/
def State.listen (s : State) (l : LineNo) (c : PumpCommand) : State :=
  s.setLine l { s.line l with pump := { (s.line l).pump with command := some c, listen := some c } }

/-- The send in progress has ended (R124). -/
def State.sendEnded (s : State) (l : LineNo) : State :=
  s.setLine l { s.line l with pump := { (s.line l).pump with sending := none } }

/-- The call on a line is an outgoing one. -/
def State.isCaller (s : State) (l : LineNo) : Bool := (s.line l).outgoing.isSome

/-! ### Dialling (R107, R112, R113) -/

/-- The nibbles a call dials: its prefix and then its number, each up to its end (R107). -/
def Call.dialSequence (c : Call) : List Nibble :=
  c.config.dialPrefix ++ (match c.out with
    | some o => dialledPart o.number
    | none => [])

/-- The next nibble that gives work, and the count of nibbles before it: on a PULSE line A and B are
finished at once (R112). -/
def nextNibble (pulse : Bool) : Nat → List Nibble → Nat × Option Nibble
  | n, [] => (n, none)
  | n, x :: xs => if pulse && (x == 10 || x == 11) then nextNibble pulse (n + 1) xs else (n, some x)

/-- One pulse break: the hook on for 60 ms (R113). -/
def State.startBreak (s : State) (l : LineNo) : State :=
  (s.setLine l { s.line l with offHook := false }).setTimer l .pulseBreak 60

/-- The work of one nibble begun (R112, R113). -/
def State.startNibble (s : State) (l : LineNo) (c : Call) (x : Nibble) : State :=
  if x = 12 then s.setTimer l .pause 2000
  else if x = 13 then
    if c.config.blind then s.setTimer l .pause 2000 else s.setTimer l .dialTone 5000
  else if c.config.pulse then
    (s.setCall l (some { c with breaks := if x = 0 then 10 else x.toNat })).startBreak l
  else (s.command l (.sendDigit x)).setTimer l .digitSent 2000

/-- Dialling goes on after the nibbles finished so far: the next nibble, or ALERTING at the end of
the number (R112, R114). -/
def State.dialOn (s : State) (l : LineNo) (c : Call) : State :=
  match nextNibble c.config.pulse c.dialled (c.dialSequence.drop c.dialled) with
  | (n, some x) =>
    let c' := { c with dialled := n }
    ((s.setCall l (some c')).setLineState l .dialling).startNibble l c' x
  | (n, none) =>
    ((s.setCall l (some { c with dialled := n })).setLineState l .alerting).setTimer l .answer
      (1000 * c.config.answerSeconds)

/-- SEIZED ends and dialling begins (R111). -/
def State.beginDialling (s : State) (l : LineNo) : State :=
  match (s.line l).call with
  | some c => (s.stopTimer l).dialOn l c
  | none => s

/-- The nibble in hand is finished (R112). -/
def State.nibbleDone (s : State) (l : LineNo) : State :=
  match (s.line l).call with
  | some c => (s.stopTimer l).dialOn l { c with dialled := c.dialled + 1 }
  | none => s

/-! ### The end of a received page with its call (R140, R142) -/

/-- An awaited copy that is kept is handed to auto-print, and is no longer awaited (R140). -/
def State.resolveAwaited (s : State) (l : LineNo) : State :=
  match (s.line l).link with
  | some k =>
    match k.awaited with
    | some a => (s.onLink l (fun k => { k with awaited := none })).autoPrint a.page
    | none => s
  | none => s

/-- The code with which a page in progress is dropped when its call ends (R142). -/
def pageEndCode (o : CallOutcome) (restart : Bool) : Nat :=
  if restart then EndCode.restart.code
  else if o = .received then EndCode.incomplete.code
  else o.code

/-- An answerer's page in progress is ended when the outcome is fixed, and then the awaited copy is
resolved (R142). -/
def State.endReceivedPage (s : State) (l : LineNo) (o : CallOutcome) (restart : Bool) : State :=
  match (s.line l).link with
  | some k =>
    let t := s.onLink l (fun k => { k with page := none })
    let u := match k.page with
      | some x =>
        match x.output with
        | .stored p => t.dropPage p (pageEndCode o restart)
        | .through => t.endThrough l
        | .refused => t
      | none => t
    u.resolveAwaited l
  | none => s

/-- A caller's page in progress loses its transmitting Reference when the outcome is fixed (R132). -/
def State.endSentPage (s : State) (l : LineNo) : State :=
  match (s.line l).link with
  | some k =>
    match k.sending with
    | some x =>
      let t := s.onLink l (fun k => { k with sending := none })
      if x.referenced then t.dropReference x.page else t
    | none => s
  | none => s

/-! ### Hook-on (R120) -/

/-- Pages confirmed, pages resent and pages done of a line's call so far. -/
def LineChannel.counts (x : LineChannel) : Nat × Nat × Nat :=
  match x.link with
  | some k => (k.confirmed, k.resent, k.done)
  | none => (0, 0, 0)

/-- The remote Station Tag of a line's call; spaces where none was kept. -/
def LineChannel.remoteTag (x : LineChannel) : Tag := (x.link.bind (fun k => k.remoteTag)).getD Tag.spaces

/-- Steps 1 to 3 of hook-on (R120): the release and its Call Log record, the outcome to the
Dispatcher, and CALL ENDED. -/
def State.release (s : State) (l : LineNo) (c : Call) (o : CallOutcome) : State :=
  let x := s.line l
  let (confirmed, resent, done) := x.counts
  let n := s.charge.sequence.toNat
  let ended : Notice :=
    { kind := .callEnded, subject := subjectOf l.val, code := some o.code, value1 := some n,
      value2 := some done }
  match c.out with
  | some f =>
    let t := s.releaseOutgoing
      { line := l, outcome := o, confirmed := confirmed, resent := resent, tag := x.remoteTag } f.number
    let u := t.applyOutcome f.job f.destination
      { outcome := o, confirmed := confirmed, resent := resent, rate := x.link.bind (fun k => k.rate),
        sequence := some n }
    u.raise ended
  | none =>
    (s.releaseIncoming { line := l, outcome := o, confirmed := done, resent := 0, tag := x.remoteTag }
      c.seizure c.connect).raise ended

/-- A line with its hook on and the facts of its call emptied, its held configuration kept. A send that
the pump has still in progress counts as ended (DESIGN CHOICE, log 63). -/
def LineChannel.emptied (x : LineChannel) (state : LineState) (timer : Option LineTimer) : LineChannel :=
  { state := state, offHook := false, timer := timer, settling := false, held := x.held, call := none,
    link := none, pump := .idle, received := [], transmit := none }

/-- The hook goes on: steps 1 to 4 of R120. -/
def State.hookOn (s : State) (l : LineNo) : State :=
  match (s.line l).call with
  | some c =>
    let t := s.setLine l { s.line l with offHook := false }
    let u := t.release l c (c.outcome.getD .aborted)
    u.setLine l ((u.line l).emptied .resting (some { kind := .rest, ms := 2000 }))
  | none => s

/-! ### The fixing of an outcome (R120, R132, R142) -/

/-- A TIMEOUT fixed in LINKED is PARTIAL when pages are confirmed and pages are left (R132). -/
def State.fixedOutcome (s : State) (l : LineNo) (o : CallOutcome) : CallOutcome :=
  let x := s.line l
  match x.state, x.outgoing, x.link with
  | .linked, some f, some k =>
    if o = .timeout && decide (1 ≤ k.confirmed)
        && decide (f.resume + k.confirmed < s.jobPageCount f.job) then .partly
    else o
  | _, _, _ => o

/-- The outcomes after which a caller's FAREWELL is due (R132). -/
def CallOutcome.farewellDue : CallOutcome → Bool
  | .sent | .refused | .failedRate | .capEnded | .cancelled | .partly => true
  | .busy | .noAnswer | .noTone | .timeout | .lineDropped | .lineTaken | .aborted | .received => false

/-- The line is in a state in which an outcome can be fixed (R118, R119). -/
def LineState.inCall : LineState → Bool
  | .seized | .dialling | .alerting | .linked => true
  | .idle | .ringing | .clearing | .resting => false

/-- The outcome of a call is fixed, once: CLEARING is entered, and a LINKED line's page in progress
is ended and its LN context released (R120, R132, R142). -/
def State.enterClearing (s : State) (l : LineNo) (o : CallOutcome) (restart : Bool) : State :=
  match (s.line l).call with
  | some c =>
    let t := s.setLine l { s.line l with
      state := .clearing, timer := none, settling := false, call := some { c with outcome := some o } }
    let u := if c.out.isSome then t.endSentPage l else t.endReceivedPage l o restart
    let v := u.setLn l none
    v.setLine l { v.line l with received := [], transmit := none }
  | none => s

/-- In CLEARING the FAREWELL is handed to the pump; it waits for a send in progress to end (R124,
log 20). -/
def State.sendFarewell (s : State) (l : LineNo) : State :=
  let t := s.setTimer l .farewell 6000
  if ((s.line l).pump.sending).isSome then
    t.setLine l { t.line l with pump := { (t.line l).pump with farewellWaits := true } }
  else t.send l (.sendFrame .farewell)

/-- A call ends with an outcome: fixed once, then CLEARING, and the hook on at once where no FAREWELL
is due (R120). -/
def State.endCall (s : State) (l : LineNo) (o : CallOutcome) : State :=
  if (s.line l).state.inCall then
    let o' := s.fixedOutcome l o
    let t := s.enterClearing l o' false
    if (s.line l).state = .linked && s.isCaller l && o'.farewellDue then t.sendFarewell l
    else t.hookOn l
  else s

/-- The hook put on at once with an outcome: ABORT LINE and a restart (R121, R122). In CLEARING the
outcome already fixed stands. -/
def State.abort (s : State) (l : LineNo) (restart : Bool) : State :=
  if (s.line l).state.inCall then (s.enterClearing l .aborted restart).hookOn l
  else if (s.line l).state = .clearing then s.hookOn l
  else s

/-! ### Clear orders (R119, R166) -/

/-- A clear order with an outcome for a line's outgoing call (R119). -/
def State.clearOrder (s : State) (l : LineNo) (o : CallOutcome) : State :=
  if s.isCaller l then s.endCall l o else s

/-- The CAP ENDED orders given in a step are taken in the order in which they were given, and those that
their releases give behind them (R166; logs 12 and 71). -/
def State.takeOrders : Nat → State → State
  | 0, s => s
  | fuel + 1, s =>
    match s.charge.orders with
    | [] => s
    | l :: rest =>
      State.takeOrders fuel
        (({ s with charge := { s.charge with orders := rest } }).clearOrder l .capEnded)

/-- The most clear orders that one step can give: 32 desks, each entering CAPPED once, on 4 lines. -/
def maxOrders : Nat := 128

/-- The end of a step on the lines: clear orders taken, Line Records brought up to date. -/
def State.finishLines (s : State) : State := (s.takeOrders maxOrders).syncLines

/-! ### Seizure, connect and LINKED (R111, R114, R115, R116, R117, R126) -/

/-- A seize order taken by an IDLE line (R111). -/
def State.seize (s : State) (l : LineNo) (j d : Nat) : State :=
  let cfg := (s.line l).held
  let x := s.destination j d
  let c : Call :=
    { out := some { job := j, destination := d, desk := s.jobDesk j, number := s.number j d,
                    resume := x.resume, startRate := x.startRate }
      config := cfg, dialled := 0, breaks := 0, rings := 0, seizure := s.now, connect := none,
      outcome := none }
  let t := (s.setCall l (some c)).hookOff l
  let u := (t.startMeter l j d (s.jobDesk j) cfg).setLineState l .seized
  if cfg.blind then u.setTimer l .blindWait 2000 else u.setTimer l .dialTone 5000

/-- The connect mark of an outgoing call, made at most once (R115, R160). -/
def State.markConnect (s : State) (l : LineNo) : State :=
  match (s.line l).call with
  | some c =>
    if c.connect.isNone then (s.setCall l (some { c with connect := some s.now })).connectMeter l
    else s
  | none => s

/-- The link state as it is set up (R126). -/
def Link.start (phase : Phase) (rate : Option Nat) : Link :=
  { phase := phase, rate := rate, coding := none, resolution := none, nextSeq := 0, confirmed := 0,
    resent := 0, done := 0, repeats := 0, lastVerdict := none, remoteTag := none, rateChosen := 0,
    choiceTaken := none, offerKept := none, sending := none, page := none, awaited := none }

/-- An LN context as it is taken (Table 4.4). -/
def LineContext.start : LineContext := { coding := none, draft := false, send := none, receive := none }

/-- The line enters LINKED as caller: LN context taken, link state set up with the start rate as the rate
class in force, whatever its value (DESIGN CHOICE, log 73), the wait for the OFFER begun (R114, R126, R127). -/
def State.linkCaller (s : State) (l : LineNo) (f : OutgoingFacts) : State :=
  let t := (s.setLn l (some LineContext.start)).setLink l
    (some (Link.start .awaitOffer (some f.startRate)))
  (t.setLineState l .linked).setTimer l .frameWait 6000

/-- ANSWER TONE in ALERTING: LINKED as caller, with the connect mark if none was made (R114, R115,
log 21). -/
def State.answered (s : State) (l : LineNo) : State :=
  match (s.line l).outgoing with
  | some f => (s.linkCaller l f).markConnect l
  | none => s

/-- The line enters LINKED as answerer with a ring count: answer tone commanded, connect marked, LN
context taken, INCOMING raised (R116, R117). -/
def State.linkAnswerer (s : State) (l : LineNo) (c : Call) (rings : Nat) : State :=
  let t := (s.setCall l (some { c with connect := some s.now })).command l .playTone
  let u := (t.setLn l (some LineContext.start)).setLink l (some (Link.start .tone none))
  ((u.setLineState l .linked).setTimer l .tonePlayed 6000).raise
    { kind := .incoming, subject := subjectOf l.val, value1 := some rings }

/-- A RINGING line answers (R116). -/
def State.answerCall (s : State) (l : LineNo) (c : Call) : State :=
  (s.hookOff l).linkAnswerer l { c with seizure := s.now } c.rings

/-- Glare (R117): the attempt ends LINE TAKEN at the Dispatcher, the meter is discarded, and the line
answers the incoming call with the hook still off. -/
def State.glare (s : State) (l : LineNo) (c : Call) (f : OutgoingFacts) : State :=
  let incoming : Call := { c with out := none, rings := 1, dialled := 0, breaks := 0 }
  let t := ((s.setCall l (some incoming)).discardMeter l).applyOutcome f.job f.destination
    { outcome := .lineTaken, confirmed := 0, resent := 0, rate := none, sequence := none }
  (t.hookOff l).linkAnswerer l incoming 1

/-- A call that begins RINGING (R116). -/
def State.startRinging (s : State) (l : LineNo) : State :=
  let c : Call :=
    { out := none, config := (s.line l).held, dialled := 0, breaks := 0, rings := 1,
      seizure := s.now, connect := none, outcome := none }
  (s.setCall l (some c)).setLineState l .ringing

/-! ### The line events (R110 to R118) -/

/-- A ring burst starts (R116, R117). -/
def State.ringStart (s : State) (l : LineNo) : State :=
  let x := s.line l
  match x.state, x.call with
  | .idle, _ => if s.isRunning && x.held.direction != .outgoing then s.startRinging l else s
  | .ringing, some c => (s.setCall l (some { c with rings := min (c.rings + 1) 9 })).stopTimer l
  | .seized, some c =>
    match c.out with
    | some f =>
      if c.config.direction = .both && decide (1 ≤ c.config.answerRings) then s.glare l c f else s
    | none => s
  | _, _ => s

/-- A counted ring burst ends: the line answers, or the gap timer starts (R116). -/
def State.ringEnd (s : State) (l : LineNo) : State :=
  let x := s.line l
  match x.state, x.call, x.timer with
  | .ringing, some c, none =>
    if c.config.answerRings ≠ 0 && decide (c.config.answerRings ≤ c.rings) then s.answerCall l c
    else s.setTimer l .ringGap 8000
  | _, _, _ => s

/-- The gap timer expires: the ringing ends with no record and no notice (R116). -/
def State.ringGap (s : State) (l : LineNo) : State :=
  if s.timerIs l .ringGap then s.setLine l ((s.line l).emptied .idle none) else s

/-- DIAL TONE in SEIZED or at a D nibble, in WAIT mode (R111, R112). -/
def State.dialTone (s : State) (l : LineNo) : State :=
  if s.timerIs l .dialTone then
    match (s.line l).state with
    | .seized => s.beginDialling l
    | .dialling => s.nibbleDone l
    | _ => s
  else s

/-- A 60 ms break ends: the hook off for 40 ms (R113). -/
def State.breakDone (s : State) (l : LineNo) : State :=
  if s.timerIs l .pulseBreak then
    (s.setLine l { s.line l with offHook := true }).setTimer l .pulseMake 40
  else s

/-- A 40 ms make ends: current absent is a loss; then the next break, or the 700 ms gap (R113, R118). -/
def State.makeDone (s : State) (l : LineNo) (current : Bool) : State :=
  if s.timerIs l .pulseMake then
    if !current then s.endCall l .lineDropped
    else
      match (s.line l).call with
      | some c =>
        let t := s.setCall l (some { c with breaks := c.breaks - 1 })
        if c.breaks ≤ 1 then t.setTimer l .interdigit 700 else t.startBreak l
      | none => s
  else s

/-- LOOP is disregarded during a pulse break and its make (R118). -/
def State.loopDisregarded (s : State) (l : LineNo) : Bool :=
  s.timerIs l .pulseBreak || s.timerIs l .pulseMake

/-- The 0.5 s after the hook went off end (R118, log 39). -/
def State.settled (s : State) (l : LineNo) (current : Bool) : State :=
  if (s.line l).settling then
    let t := s.setLine l { s.line l with settling := false }
    if !current && !s.loopDisregarded l then t.endCall l .lineDropped else t
  else s

/-- Loop current stops (R118). -/
def State.loopLoss (s : State) (l : LineNo) : State :=
  if (s.line l).offHook && !(s.line l).settling && !s.loopDisregarded l then s.endCall l .lineDropped
  else s

/-- A polarity reversal: the connect mark under REVERSAL supervision in DIALLING or ALERTING (R115). -/
def State.reversal (s : State) (l : LineNo) : State :=
  match (s.line l).state, (s.line l).call with
  | .dialling, some c => if c.config.reversalSupervision then s.markConnect l else s
  | .alerting, some c => if c.config.reversalSupervision then s.markConnect l else s
  | _, _ => s

/-- A metering pulse while an outgoing call is in progress (R115, R162). -/
def State.meterPulse (s : State) (l : LineNo) : State := if s.isCaller l then s.countPulse l else s

/-- The rest expires: IDLE, and the Dispatcher is told (R120, R147). -/
def State.restDone (s : State) (l : LineNo) : State :=
  if s.timerIs l .rest then
    let t := s.setLine l ((s.line l).emptied .idle none)
    { t with dispatcher := { t.dispatcher with lookPending := true } }
  else s

/-- A line's timer of the given purpose expires and ends the call with an outcome. -/
def State.timeoutEnds (s : State) (l : LineNo) (kind : TimerKind) (o : CallOutcome) : State :=
  if s.timerIs l kind then s.endCall l o else s

/-- A line in ALERTING ends with BUSY (R114). -/
def State.busyTone (s : State) (l : LineNo) : State :=
  if (s.line l).state = .alerting then s.endCall l .busy else s

/-- The pump's ANSWER TONE in ALERTING (R114). -/
def State.answerTone (s : State) (l : LineNo) : State :=
  if (s.line l).state = .alerting then s.answered l else s

end Sys2Proof.Machine
end

