-- ==== Sys2Proof/Machine/Link.lean ====
section
/-! DEFINITION. The link protocol (Chapter 8), frames and the caller's side: frame bytes, the choice,
the sending of pages and the grants of a sending line context. -/

namespace Sys2Proof.Machine

/-! ### Frame bytes (R125, R183, Table 12.9) -/

/-- The kind of a frame. -/
def Frame.kind : Frame → Byte
  | .offer .. => 1
  | .choice .. => 2
  | .ready => 3
  | .rateDown => 4
  | .pageEnd .. => 5
  | .verdict .. => 6
  | .farewell => 7

/-- The code of a judgement. -/
def Judgement.code : Judgement → Nat
  | .good => 0
  | .poor => 1
  | .refused => 2

/-- The field bytes of a frame, after its kind and before its check (Table 12.9). -/
def Frame.fields : Frame → List Byte
  | .offer reference maxK fine maxRate tag =>
    [BitVec.ofNat 8 (flagValue reference + 2 * flagValue fine), BitVec.ofNat 8 maxK,
     BitVec.ofNat 8 maxRate] ++ tag
  | .choice coding resolution rate tag =>
    (match coding with
      | .plain => [0, 0]
      | .reference k => [1, BitVec.ofNat 8 k])
    ++ [BitVec.ofNat 8 resolution.code, BitVec.ofNat 8 rate] ++ tag
  | .ready | .rateDown | .farewell => []
  | .pageEnd seq lines last => [seq] ++ beBytes 2 lines ++ [BitVec.ofNat 8 (flagValue last)]
  | .verdict seq judgement => [seq, BitVec.ofNat 8 judgement.code]

/-- The bytes of a frame on the Pump Link: kind, fields, check (R183). -/
def Frame.bytes (f : Frame) : List Byte :=
  let body := f.kind :: f.fields
  body ++ checkBytes body

/-- The fields of a heard frame, when its length is right for the kind and its check agrees; `body`
holds the bytes after the kind (R125, R183). -/
def frameFields (kind : Byte) (n : Nat) (body : List Byte) : Option (List Byte) :=
  let fields := body.take n
  if body.length = n + 2 && body.drop n == checkBytes (kind :: fields) then some fields else none

/-- Field byte i of a frame. -/
def fieldAt (fields : List Byte) (i : Nat) : Nat := (fields.getD i 0).toNat

/-- An OFFER heard, within the values of Table 8.2; bits 2 to 7 of its flags are ignored (DESIGN CHOICE,
log 76). -/
def parseOffer (body : List Byte) : Option Frame :=
  match frameFields 1 13 body with
  | some fs =>
    let k := fieldAt fs 1
    let rate := fieldAt fs 2
    if 1 ≤ k ∧ k ≤ 15 ∧ 1 ≤ rate ∧ rate ≤ 4 then
      some (.offer (fieldAt fs 0 % 2 == 1) k (fieldAt fs 0 / 2 % 2 == 1) rate (fs.drop 3))
    else none
  | none => none

/-- The coding of a CHOICE; K is read only for REFERENCE (R183). -/
def codingOf (coding k : Nat) : Option Coding :=
  match coding with
  | 0 => some .plain
  | 1 => if k = 2 ∨ k = 4 ∨ k = 8 then some (.reference k) else none
  | _ => none

/-- A CHOICE heard, within the values of Table 8.2. -/
def parseChoice (body : List Byte) : Option Frame :=
  match frameFields 2 14 body with
  | some fs =>
    let rate := fieldAt fs 3
    match codingOf (fieldAt fs 0) (fieldAt fs 1), Resolution.ofCode (fieldAt fs 2) with
    | some c, some r => if 1 ≤ rate ∧ rate ≤ 4 then some (.choice c r rate (fs.drop 4)) else none
    | _, _ => none
  | none => none

/-- A frame with no fields heard. -/
def parseBare (f : Frame) (body : List Byte) : Option Frame := (frameFields f.kind 0 body).map (fun _ => f)

/-- A PAGE END heard, within the values of Table 8.2. -/
def parsePageEnd (body : List Byte) : Option Frame :=
  match frameFields 5 4 body with
  | some fs =>
    let lines := 256 * fieldAt fs 1 + fieldAt fs 2
    if lines ≤ Config.maxLines ∧ fieldAt fs 3 ≤ 1 then
      some (.pageEnd (fs.getD 0 0) lines (fieldAt fs 3 == 1))
    else none
  | none => none

/-- The judgement that a code names. -/
def Judgement.ofCode : Nat → Option Judgement
  | 0 => some .good
  | 1 => some .poor
  | 2 => some .refused
  | _ => none

/-- A VERDICT heard, within the values of Table 8.2. -/
def parseVerdict (body : List Byte) : Option Frame :=
  match frameFields 6 2 body with
  | some fs => (Judgement.ofCode (fieldAt fs 1)).map (Frame.verdict (fs.getD 0 0))
  | none => none

/-- The own Station Tag of the Config Block (R125). -/
def State.ownTag (s : State) : Tag := s.bytesAt Config.ownTag 10

/-! ### Shared by both sides -/

/-- The link phase of a LINKED line. -/
def State.phaseOf (s : State) (l : LineNo) : Option Phase :=
  if (s.line l).state = .linked then (s.line l).link.map (fun k => k.phase) else none

/-- A frame, Parcel or check is heard: the line is LINKED and no send is in progress (R124). -/
def State.hears (s : State) (l : LineNo) : Bool :=
  (s.line l).state == .linked && (s.line l).pump.sending.isNone

/-- The line's LN context changed in place. -/
def State.onLn (s : State) (l : LineNo) (f : LineContext → LineContext) : State :=
  s.setLn l ((s.lnContext l).map f)

/-- A frame sent that is not a repeat: the repeat count returns to 0 (R127). -/
def State.sendFresh (s : State) (l : LineNo) (f : Frame) : State :=
  (s.onLink l (fun k => { k with repeats := 0 })).send l (.sendFrame f)

/-- A frame sent again at an expiry: the repeat count rises (R127). -/
def State.sendRepeat (s : State) (l : LineNo) (f : Frame) : State :=
  (s.onLink l (fun k => { k with repeats := k.repeats + 1 })).send l (.sendFrame f)

/-! ### The choice (R128 to R130) -/

/-- The coding a caller chooses from an OFFER (R128). -/
def chosenCoding (reference : Bool) (maxK : Nat) : Coding :=
  if reference && decide (2 ≤ maxK) then
    .reference (if 8 ≤ maxK then 8 else if 4 ≤ maxK then 4 else 2)
  else .plain

/-- The sending resolution of a page: FINE when the page is FINE and FINE was offered (R130). -/
def State.sendingResolution (s : State) (p : Nat) (fine : Bool) : Resolution :=
  if s.pageResolution p = .fine && fine then .fine else .draft

/-- The CHOICE of a link state with its values, sent or sent again; a repeated one carries the own Station
Tag as the Config Block holds it then (DESIGN CHOICE, log 54). -/
def State.choiceFrame (s : State) (k : Link) : Frame :=
  .choice (k.coding.getD .plain) (k.resolution.getD .draft) k.rateChosen s.ownTag

/-- The caller enters CHOOSING and sends CHOICE with a resolution and a rate class (R128). -/
def State.sendChoice (s : State) (l : LineNo) (r : Resolution) (rate : Nat) : State :=
  let t := (s.stopTimer l).onLink l
    (fun k => { k with phase := .choosing, resolution := some r, rateChosen := rate })
  match (t.line l).link with
  | some k => t.sendFresh l (t.choiceFrame k)
  | none => t

/-- The same CHOICE sent again (R127, R129; logs 18 and 19). -/
def State.repeatChoice (s : State) (l : LineNo) (counted : Bool) : State :=
  let t := (s.stopTimer l).onLink l (fun k => { k with phase := .choosing })
  match (t.line l).link with
  | some k => if counted then t.sendRepeat l (t.choiceFrame k) else t.sendFresh l (t.choiceFrame k)
  | none => t

/-- The page that a caller's list entry names, also beyond the job's page count (DESIGN CHOICE, log 72). -/
def State.listPage (s : State) (f : OutgoingFacts) (i : Nat) : Nat := s.jobPage f.job i

/-- AWAIT OFFER takes an OFFER: the tag and the offers kept, the choice made and sent (R128). A start rate
outside 1 to 4 is taken as the rate class in force as it stands (DESIGN CHOICE, log 73). -/
def State.takeOffer (s : State) (l : LineNo) (f : OutgoingFacts) (reference : Bool) (maxK : Nat)
    (fine : Bool) (maxRate : Nat) (tag : Tag) : State :=
  match (s.line l).link with
  | some k =>
    let coding := chosenCoding reference maxK
    let r := s.sendingResolution (s.listPage f f.resume) fine
    let draft := s.pageResolution (s.listPage f f.resume) = .fine && r = .draft
    let t := s.onLink l (fun k =>
      { k with remoteTag := some tag, offerKept := some (fine, maxRate), coding := some coding })
    let u := t.onLn l (fun c => { c with coding := some coding, draft := draft })
    u.sendChoice l r (min maxRate (k.rate.getD maxRate))
  | none => s

/-! ### Pages (R130, R131) -/

/-- The PAGE END of the page being sent (R130). -/
def State.pageEndFrame (s : State) (l : LineNo) (f : OutgoingFacts) (x : SendPage) : Frame :=
  let total := match s.lnContext l with
    | some c => (c.send.map (fun h => h.total)).getD 0
    | none => 0
  .pageEnd x.seq total (x.index + 1 == s.jobPageCount f.job)

/-- PAGE END sent: the page's last Parcel has been taken, or the page has none (R130). -/
def State.sendPageEnd (s : State) (l : LineNo) (f : OutgoingFacts) (x : SendPage) : State :=
  s.sendFresh l (s.pageEndFrame l f x)

/-- Transmitted lines of a page (R70, R78). -/
def State.transmittedLines (s : State) (p : Nat) (draft : Bool) : Nat :=
  if draft then (s.pageLines p + 1) / 2 else s.pageLines p

/-- A sending half at the start of a page (R78). -/
def State.sendStart (s : State) (p : Nat) (seq : Byte) (draft : Bool) : SendHalf :=
  { dec := s.decodeStart p, seq := seq, nextSent := 0, total := s.transmittedLines p draft,
    reference := Raster.white, nonDirect := 0, parcel := none, pending := none }

/-- The caller begins a page of its list, for the given time in this call, at the resolution in force
(R130): transmitting Reference, Charge Unit, sequence, LN context, SENDING. A refused Reference does
not stop the page (log 38). -/
def State.startPage (s : State) (l : LineNo) (f : OutgoingFacts) (k : Link) (i times : Nat)
    (draft : Bool) : State :=
  let p := s.listPage f i
  let taken := s.takeReference p [.sealed, .dropped] 255
  let x : SendPage :=
    { index := i, page := p, seq := k.nextSeq, times := times, referenced := taken.isSome }
  let t := (taken.getD s).meterPageBegun l
  let u := t.onLn l (fun c =>
    { c with draft := draft, send := some (t.sendStart p k.nextSeq draft) })
  let v := (u.stopTimer l).onLink l (fun k =>
    { k with phase := .sending, nextSeq := k.nextSeq + 1, sending := some x })
  if t.transmittedLines p draft = 0 then v.sendPageEnd l f x else v

/-- The caller begins a page: a new CHOICE first when its sending resolution is not the one in force
(R130). -/
def State.beginPage (s : State) (l : LineNo) (f : OutgoingFacts) (i times : Nat) : State :=
  match (s.line l).link with
  | some k =>
    let fine := (k.offerKept.map (fun o => o.1)).getD false
    let r := s.sendingResolution (s.listPage f i) fine
    if k.resolution = some r then
      s.startPage l f k i times (s.pageResolution (s.listPage f i) = .fine && r = .draft)
    else s.sendChoice l r (k.rate.getD k.rateChosen)
  | none => s

/-- The next page of the list: the resume index and the pages confirmed (R130). Each list entry counts its
own sendings for R131, also where the list names a page twice (DESIGN CHOICE, log 56). A resume index at or
above the page count is taken as it stands, and no page is then the last (DESIGN CHOICE, log 72). -/
def State.nextPage (s : State) (l : LineNo) (f : OutgoingFacts) : State :=
  match (s.line l).link with
  | some k => s.beginPage l f (f.resume + k.confirmed) 1
  | none => s

/-- A page confirmed: SENT after the last of the list, CAP ENDED when that order was owed, and the
next page otherwise (R131, R166). -/
def State.confirmPage (s : State) (l : LineNo) (f : OutgoingFacts) (x : SendPage) (capped : Bool) :
    State :=
  let t := s.onLink l (fun k => { k with confirmed := k.confirmed + 1, done := k.done + 1 })
  if x.index + 1 = s.jobPageCount f.job then t.endCall l .sent
  else if capped then t.endCall l .capEnded
  else t.nextPage l f

/-- AWAIT VERDICT takes the verdict of the page it closed (R131). A page judged POOR while a cap's order is
owed is neither resent nor confirmed (R166; log 24). -/
def State.takeVerdict (s : State) (l : LineNo) (f : OutgoingFacts) (x : SendPage) (j : Judgement) :
    State :=
  let t := s.endSentPage l
  let (u, capped) := (t.stopTimer l).meterVerdict l
  match j with
  | .good => u.confirmPage l f x capped
  | .poor =>
    if capped then u.endCall l .capEnded
    else if x.times < 2 then
      (u.onLink l (fun k => { k with resent := k.resent + 1 })).beginPage l f x.index (x.times + 1)
    else u.confirmPage l f x false
  | .refused => u.endCall l .refused

/-! ### Frames heard by the caller -/

/-- A frame heard in a caller's phase (R128, R129, R131); any other is disregarded (R125). -/
def State.callerFrame (s : State) (l : LineNo) (f : OutgoingFacts) (k : Link) (x : Frame) : State :=
  match k.phase, x with
  | .awaitOffer, .offer reference maxK fine maxRate tag => s.takeOffer l f reference maxK fine maxRate tag
  | .awaitReady, .ready =>
    ((s.stopTimer l).onLink l (fun k => { k with rate := some k.rateChosen })).nextPage l f
  | .awaitReady, .rateDown =>
    if 1 < k.rateChosen then s.sendChoice l (k.resolution.getD .draft) (k.rateChosen - 1)
    else s.endCall l .failedRate
  | .awaitReady, .offer .. => s.repeatChoice l false
  | .awaitVerdict, .verdict seq j =>
    match k.sending with
    | some p => if seq = p.seq then s.takeVerdict l f p j else s
    | none => s
  | _, _ => s

/-! ### The ends of sends (R124, R128, R130, R139) -/

/-- In CLEARING a FAREWELL that waited for the send in progress is handed to the pump (log 20). -/
def State.afterSend (s : State) (l : LineNo) : State :=
  if (s.line l).state = .clearing && (s.line l).pump.farewellWaits then
    (s.setLine l { s.line l with pump := { (s.line l).pump with farewellWaits := false } }).send l
      (.sendFrame .farewell)
  else s

/-- A phase change at the end of a send, on a LINKED line. -/
def State.enterPhase (s : State) (l : LineNo) (p : Phase) : State :=
  s.onLink l (fun k => { k with phase := p })

/-- FRAME SENT on a LINKED line, by the frame that was sent. -/
def State.frameSentLinked (s : State) (l : LineNo) (f : Frame) : State :=
  match f with
  | .choice .. =>
    match (s.line l).link with
    | some k => (s.enterPhase l .checkingCaller).send l (.sendCheck k.rateChosen)
    | none => s
  | .pageEnd .. => (s.enterPhase l .awaitVerdict).setTimer l .frameWait 6000
  | .offer .. => s.setTimer l .frameWait 6000
  | .rateDown => s.setTimer l .frameWait 6000
  | .verdict .. =>
    match (s.line l).link with
    | some k => s.listen l (.listenParcels (k.rate.getD k.rateChosen))
    | none => s
  | .ready => s
  | .farewell => s

/-- The pump reports a frame sent (R120, R124). -/
def State.frameSent (s : State) (l : LineNo) : State :=
  match (s.line l).pump.sending with
  | some (.sendFrame f) =>
    let t := s.sendEnded l
    match (s.line l).state with
    | .linked => t.frameSentLinked l f
    | .clearing => if f = .farewell then t.hookOn l else t.afterSend l
    | _ => t
  | _ => s

/-- The pump reports the check burst sent: AWAIT READY with its frame wait (R127, R128). -/
def State.checkSent (s : State) (l : LineNo) : State :=
  match (s.line l).pump.sending with
  | some (.sendCheck _) =>
    let t := s.sendEnded l
    match (s.line l).state with
    | .linked => (t.enterPhase l .awaitReady).setTimer l .frameWait 6000
    | .clearing => t.afterSend l
    | _ => t
  | _ => s

/-- The sending context has no more of its page to code (R78). -/
def SendHalf.finished (h : SendHalf) : Bool :=
  decide (h.total ≤ h.nextSent) && h.pending.isNone && h.parcel.isNone

/-- The pump has taken the Parcel: the buffer is free, and PAGE END follows the page's last one
(R124, R130). -/
def State.parcelTaken (s : State) (l : LineNo) : State :=
  match (s.line l).pump.sending with
  | some (.sendParcel _) =>
    let t := (s.sendEnded l).setLine l { (s.sendEnded l).line l with transmit := none }
    match (s.line l).state with
    | .linked =>
      match (s.line l).outgoing, (s.line l).link, s.lnContext l with
      | some f, some k, some c =>
        match k.sending, c.send with
        | some x, some h => if h.finished then t.sendPageEnd l f x else t
        | _, _ => t
      | _, _, _ => t
    | .clearing => t.afterSend l
    | _ => t
  | _ => s

/-! ### Grants of a sending context (R67, R70, R74) -/

/-- The bytes of a closed Parcel: header, payload padded with zero bits, check (R67, R68, R183). -/
def OpenParcel.bytes (p : OpenParcel) (seq : Byte) : List Byte :=
  let body := [seq] ++ beBytes 2 p.first ++ [BitVec.ofNat 8 p.lines] ++ beBytes 2 p.bits.length
    ++ packBits p.bits
  body ++ checkBytes body

/-- The most coded bits a Parcel's payload holds (R67). -/
def payloadLimit : Nat := 8192

/-- What coding a transmitted line into the open Parcel comes to: the sending half after it, and the
Parcel that it closed. -/
def SendHalf.place (h : SendHalf) (coding : Coding) (x : Raster) : SendHalf × Option OpenParcel :=
  match h.parcel with
  | none =>
    let c := codeLine coding true x Raster.white
    let p : OpenParcel := { first := h.nextSent, lines := 1, bits := c.bits }
    let g := { h with nextSent := h.nextSent + 1, reference := x, nonDirect := 0, pending := none }
    if h.nextSent + 1 = h.total then ({ g with parcel := none }, some p)
    else ({ g with parcel := some p }, none)
  | some p =>
    let c := codeLine coding (h.nonDirect == coding.limit) x h.reference
    if payloadLimit < p.bits.length + c.bits.length then
      ({ h with parcel := none, pending := some x }, some p)
    else
      let q : OpenParcel := { p with lines := p.lines + 1, bits := p.bits ++ c.bits }
      let g := { h with nextSent := h.nextSent + 1, reference := x,
                        nonDirect := nonDirectAfter h.nonDirect c }
      if q.lines = 255 || h.nextSent + 1 = h.total then ({ g with parcel := none }, some q)
      else ({ g with parcel := some q }, none)

/-- A sending context has work: the buffer is free, and a transmitted line remains or a pending line
waits (R73). -/
def State.lnSendWork (s : State) (l : LineNo) : Bool :=
  match s.lnContext l with
  | some { send := some h, .. } =>
    s.phaseOf l == some .sending && (s.line l).transmit.isNone
      && (decide (h.nextSent < h.total) || h.pending.isSome)
  | _ => false

/-- The line to be coded in a sending grant, with the half after its decoding: the pending line, or
the next page line; none for an odd line under draft reduction (R67, R70). -/
def State.sendLine (s : State) (h : SendHalf) (draft : Bool) : SendHalf × Option Raster :=
  match h.pending with
  | some x => (h, some x)
  | none =>
    let d := s.decodeNext h.dec
    let g := { h with dec := d.frame }
    if draft && h.dec.next % 2 == 1 then (g, none) else (g, some d.pixels)

/-- A Parcel that the context has closed goes into the transmit buffer and to the pump (R67, R130). -/
def State.handParcel (s : State) (l : LineNo) (bytes : List Byte) : State :=
  (s.setLine l { s.line l with transmit := some bytes }).send l (.sendParcel bytes)

/-- A grant of a sending line context (R74). -/
def State.lnSendGrant (s : State) (l : LineNo) : State :=
  match s.lnContext l with
  | some c =>
    match c.send with
    | some h =>
      match s.sendLine h c.draft with
      | (g, none) => s.setLn l (some { c with send := some g })
      | (g, some x) =>
        match g.place (c.coding.getD .plain) x with
        | (k, none) => s.setLn l (some { c with send := some k })
        | (k, some p) => (s.setLn l (some { c with send := some k })).handParcel l (p.bytes k.seq)
    | none => s
  | none => s

end Sys2Proof.Machine
end

