-- ==== Sys2Proof/Machine/Receive.lean ====
section
/-! DEFINITION. The link protocol (Chapter 8), the answerer's side: offering and checking, Parcels,
the storage decision, substitutes, the grants of a receiving line context and the verdict. -/

namespace Sys2Proof.Machine

/-! ### Offering and checking (R133) -/

/-- The OFFER of the part as answerer: REFERENCE with maximum K 8, FINE, rate class 4 (R125). -/
def State.offerFrame (s : State) : Frame := .offer true 8 true 4 s.ownTag

/-- TONE takes TONE PLAYED: OFFER sent, OFFERING entered (R133). -/
def State.tonePlayed (s : State) (l : LineNo) : State :=
  if s.phaseOf l = some .tone then
    let t := (s.stopTimer l).enterPhase l .offering
    t.sendFresh l t.offerFrame
  else s

/-- A CHOICE taken: its values and tag kept, LISTEN CHECK given, CHECKING entered (R133). -/
def State.takeChoice (s : State) (l : LineNo) (coding : Coding) (r : Resolution) (rate : Nat)
    (tag : Tag) : State :=
  let t := (s.stopTimer l).onLink l (fun k =>
    { k with phase := .checkingAnswerer, rateChosen := rate, choiceTaken := some (coding, r),
             remoteTag := some tag })
  (t.onLn l (fun c => { c with coding := some coding })).listen l (.listenCheck rate)

/-- The page gap timer started (R134). -/
def State.startGap (s : State) (l : LineNo) : State := s.setTimer l .pageGap 60000

/-- CHECK GOOD in CHECKING: the chosen values in force, READY sent, LISTEN PARCELS given (R133). -/
def State.checkGood (s : State) (l : LineNo) : State :=
  if s.hears l && s.phaseOf l == some .checkingAnswerer then
    let t := s.onLink l (fun k =>
      { k with phase := .receiving, rate := some k.rateChosen,
               coding := k.choiceTaken.map (fun c => c.1),
               resolution := k.choiceTaken.map (fun c => c.2) })
    let u := t.sendFresh l .ready
    (u.listen l (.listenParcels (((u.line l).link.bind (fun k => k.rate)).getD 1))).startGap l
  else s

/-- CHECK BAD in CHECKING: RATE DOWN sent, OFFERING entered (R133). -/
def State.checkBad (s : State) (l : LineNo) : State :=
  if s.hears l && s.phaseOf l == some .checkingAnswerer then
    (s.enterPhase l .offering).sendFresh l .rateDown
  else s

/-! ### Parcels and their placement (R69, R134, R183) -/

/-- The header of a Parcel heard (Table 12.10). -/
structure ParcelHeader where
  seq : Byte
  first : Nat
  count : Nat
  bits : Nat
deriving DecidableEq, Repr

/-- A Parcel's header as its bytes give it. -/
def parcelHeader (b : List Byte) : ParcelHeader :=
  { seq := b.getD 0 0, first := beValue ((b.drop 1).take 2), count := (b.getD 3 0).toNat,
    bits := beValue ((b.drop 4).take 2) }

/-- A Parcel is not lost: its length is that of its header (log 35), its check agrees, its header is
in the ranges of Table 4.2, and its lines end by 2560 (R69). -/
def parcelGood (b : List Byte) : Bool :=
  let h := parcelHeader b
  let n := 6 + (h.bits + 7) / 8
  b.length == n + 2 && b.drop n == checkBytes (b.take n)
    && decide (h.first ≤ 2559) && decide (1 ≤ h.count) && decide (1 ≤ h.bits)
    && decide (h.bits ≤ 8192) && decide (h.first + h.count ≤ Config.maxLines)

/-- The coded bits of a Parcel: its payload up to the payload bit count (R69). -/
def parcelBits (b : List Byte) : BitSource := fun k =>
  if k < (parcelHeader b).bits then some ((b.getD (6 + k / 8) 0).getMsbD (k % 8)) else none

/-- Lines wait to be coded or handed on: they and the cursor after them join the page (R136); those
of a truncated page (R137) and of a refused page, which is not decoded (R135), are discarded. -/
def ReceivePage.placed (x : ReceivePage) (lines : List WaitingLine) (cursor : Nat) : ReceivePage :=
  { x with cursor := max x.cursor cursor
           waiting := if x.truncated || x.output == .refused then [] else x.waiting ++ lines }

/-- A substitute line: a copy of the last good line, or white (R136). -/
def ReceivePage.substitute (x : ReceivePage) : WaitingLine :=
  { pixels := x.lastGood.getD Raster.white, substitute := true }

/-- Substitutes ordered for the lines from the cursor to below a line index (R136). -/
def ReceivePage.substituteTo (x : ReceivePage) (i : Nat) : ReceivePage :=
  x.placed (List.replicate (i - x.cursor) x.substitute) i

/-- The page in progress of a line changed in place. -/
def State.onPage (s : State) (l : LineNo) (f : ReceivePage → ReceivePage) : State :=
  s.onLink l (fun k => { k with page := k.page.map f })

/-- The Parcel that stands first in the buffers is begun: the gap before it is substituted, and the
decode half is reset (R69, R136). -/
def State.beginParcel (s : State) (l : LineNo) : State :=
  match (s.line l).received with
  | b :: _ =>
    (s.onPage l (fun x => x.substituteTo (parcelHeader b).first)).onLn l (fun c =>
      { c with receive := c.receive.map (fun r =>
          { r with bit := 0, decoded := 0, reference := Raster.white }) })
  | [] => s

/-- The first Parcel's buffer is freed, and the next Parcel begun (R69). -/
def State.endParcel (s : State) (l : LineNo) : State :=
  (s.setLine l { s.line l with received := (s.line l).received.drop 1 }).beginParcel l

/-! ### The storage decision (R135) -/

/-- A page in progress with its output, at the start (R135). -/
def ReceivePage.start (seq : Byte) (output : Output) : ReceivePage :=
  { seq := seq, output := output, cursor := 0, lastGood := none, ending := none, truncated := false,
    waiting := [] }

/-- The receiving half at the start of a page with its output (R72, R78). -/
def receiveStart (output : Output) : ReceiveHalf :=
  { enc := match output with
      | .stored p => some (EncodeFrame.start p)
      | .through => none
      | .refused => none
    bit := 0, decoded := 0, reference := Raster.white }

/-- The page begins with an output. -/
def State.beginReceive (s : State) (l : LineNo) (seq : Byte) (output : Output) : State :=
  (s.onLink l (fun k => { k with page := some (ReceivePage.start seq output) })).onLn l
    (fun c => { c with receive := some (receiveStart output) })

/-- The awaited copy is kept without auto-print: its resend is being printed (R140). -/
def State.keepAwaited (s : State) (l : LineNo) : State := s.onLink l (fun k => { k with awaited := none })

/-- A RECEIVE page created under the Page Start Minimum (R52). -/
def State.createReceived (s : State) (r : Resolution) (tag : Tag) : Option (State × Nat) :=
  if s.pageStartMinimum then s.createPage .receive r tag else none

/-- The storage decision for a page with a sequence (R135): stored, through-printed or refused. -/
def State.decideStorage (s : State) (l : LineNo) (seq : Byte) : State :=
  match (s.line l).link with
  | some k =>
    let r := k.resolution.getD .draft
    match s.createReceived r (k.remoteTag.getD Tag.spaces) with
    | some (t, p) => t.beginReceive l seq (.stored p)
    | none =>
      match s.grantThrough l r with
      | some t => (t.keepAwaited l).beginReceive l seq .through
      | none => (s.resolveAwaited l).beginReceive l seq .refused
  | none => s

/-- No page is in progress and the sequence is other than that of the last verdict sent (R135). -/
def Link.startsPage (k : Link) (seq : Byte) : Bool :=
  k.page.isNone && (match k.lastVerdict with
    | some v => seq != v.seq
    | none => true)

/-- A Parcel that passed its checks, while a page is in progress: kept in its buffer for the LN
context, or discarded for another sequence, a refused page or a truncated one (R135 to R137). -/
def State.keepParcel (s : State) (l : LineNo) (b : List Byte) : State :=
  match (s.line l).link with
  | some k =>
    match k.page with
    | some x =>
      if x.seq = (parcelHeader b).seq && x.output != .refused && !x.truncated then
        let first := (s.line l).received.isEmpty
        let t := s.setLine l { s.line l with received := (s.line l).received ++ [b] }
        if first then t.beginParcel l else t
      else s
    | none => s
  | none => s

/-- A Parcel placed in a free buffer: checked, and the storage decision taken at the first good one
of a page (R134, R135). -/
def State.placeParcel (s : State) (l : LineNo) (k : Link) (b : List Byte) : State :=
  if parcelGood b then
    let t := if k.startsPage (parcelHeader b).seq then s.decideStorage l (parcelHeader b).seq else s
    t.keepParcel l b
  else s

/-- PARCEL IN in RECEIVING or FINISHING (R134): the gap timer starts again in RECEIVING, and a Parcel
heard while both buffers hold Parcels is lost. -/
def State.parcelIn (s : State) (l : LineNo) (b : List Byte) : State :=
  if s.hears l then
    match (s.line l).link with
    | some k =>
      match k.phase with
      | .receiving =>
        let t := s.startGap l
        if (s.line l).received.length < 2 then t.placeParcel l k b else t
      | .finishing => if (s.line l).received.length < 2 then s.placeParcel l k b else s
      | _ => s
    | none => s
  else s

/-- CARRIER LOST while a page is in progress and before its PAGE END (R134). -/
def State.carrierLost (s : State) (l : LineNo) : State :=
  match (s.line l).link with
  | some k =>
    match k.page with
    | some x =>
      if s.hears l && k.phase == .receiving && x.ending.isNone then s.endCall l .lineDropped else s
    | none => s
  | none => s

/-- The page gap expires: RECEIVED when no page is in progress and the last verdict was GOOD for a
LAST page, TIMEOUT otherwise (R134). -/
def State.gapExpired (s : State) (l : LineNo) : State :=
  if s.timerIs l .pageGap then
    match (s.line l).link with
    | some k =>
      let complete := k.page.isNone && (match k.lastVerdict with
        | some v => v.judgement == .good && v.last
        | none => false)
      s.endCall l (if complete then .received else .timeout)
    | none => s
  else s

/-! ### PAGE END (R138) -/

/-- PAGE END of the page in progress: its count and mark kept, the missing lines substituted,
FINISHING entered and the gap timer stopped (R134, R138; log 23). -/
def State.finishPage (s : State) (l : LineNo) (lines : Nat) (last : Bool) : State :=
  ((s.stopTimer l).enterPhase l .finishing).onPage l (fun x =>
    ({ x with ending := some (lines, last) }).substituteTo lines)

/-- A PAGE END of the page whose verdict was sent last: the same VERDICT again, with the gap timer
started; any other is disregarded (R134, R138). -/
def State.oldPageEnd (s : State) (l : LineNo) (k : Link) (seq : Byte) : State :=
  match k.lastVerdict with
  | some v => if v.seq = seq then (s.sendFresh l (.verdict v.seq v.judgement)).startGap l else s
  | none => s

/-- A PAGE END in RECEIVING (R138). -/
def State.takePageEnd (s : State) (l : LineNo) (k : Link) (seq : Byte) (lines : Nat) (last : Bool) :
    State :=
  match k.page with
  | some x => if x.seq = seq then s.finishPage l lines last else s.oldPageEnd l k seq
  | none =>
    if k.startsPage seq then (s.decideStorage l seq).finishPage l lines last
    else s.oldPageEnd l k seq

/-- A frame heard in an answerer's phase (R133, R138, R142); any other is disregarded (R125). -/
def State.answererFrame (s : State) (l : LineNo) (k : Link) (x : Frame) : State :=
  match k.phase, x with
  | .offering, .choice c r rate tag => s.takeChoice l c r rate tag
  | .offering, .farewell => s.endCall l .received
  | .receiving, .choice c r rate tag => if k.page.isNone then s.takeChoice l c r rate tag else s
  | .receiving, .pageEnd seq lines last => s.takePageEnd l k seq lines last
  | .receiving, .farewell => s.endCall l .received
  | .finishing, .farewell => s.endCall l .received
  | _, _ => s

/-- A frame that FRAME IN hands over on a LINKED line: disregarded when it does not pass (R125),
taken by the caller's or the answerer's phase otherwise. -/
def State.frameIn (s : State) (l : LineNo) (frame : Option Frame) : State :=
  match frame, (s.line l).link with
  | some x, some k =>
    if s.hears l then
      match (s.line l).outgoing with
      | some f => s.callerFrame l f k x
      | none => s.answererFrame l k x
    else s
  | _, _ => s

/-! ### The frame wait (R127) -/

/-- The frame of Table 8.4 sent again, with the wait begun anew at its end; in AWAIT OFFER only the
wait is begun again (R127). A CHOICE and an OFFER carry the own Station Tag as the Config Block holds it then
(DESIGN CHOICE, log 54). -/
def State.repeatFrame (s : State) (l : LineNo) (k : Link) : State :=
  match k.phase with
  | .awaitOffer => (s.onLink l (fun k => { k with repeats := k.repeats + 1 })).setTimer l .frameWait 6000
  | .awaitReady => s.repeatChoice l true
  | .awaitVerdict =>
    match (s.line l).outgoing, k.sending with
    | some f, some x => (s.stopTimer l).sendRepeat l (s.pageEndFrame l f x)
    | _, _ => s
  | .offering => (s.stopTimer l).sendRepeat l s.offerFrame
  | _ => s

/-- The frame wait expires: a repeat while the repeat count is below 3, TIMEOUT otherwise (R127). -/
def State.frameWaitExpired (s : State) (l : LineNo) : State :=
  if s.timerIs l .frameWait then
    match (s.line l).link with
    | some k => if k.repeats < 3 then s.repeatFrame l k else s.endCall l .timeout
    | none => s
  else s

/-! ### Grants of a receiving context (R69, R74, R136, R137) -/

/-- The output of a line's page can take a line (R73). -/
def State.outputReady (s : State) (l : LineNo) (x : ReceivePage) : Bool :=
  match x.output with
  | .stored _ => true
  | .through => s.throughReady l
  | .refused => false

/-- A receiving context has work: a waiting line or a Parcel not yet decoded, and an output that can
take a line (R73). -/
def State.lnReceiveWork (s : State) (l : LineNo) : Bool :=
  match (s.line l).link with
  | some { page := some x, .. } =>
    (s.line l).state == .linked && (!x.waiting.isEmpty || !(s.line l).received.isEmpty)
      && s.outputReady l x
  | _ => false

/-- A received page is truncated: the flag set, and the lines and Parcels waiting discarded (R137). -/
def State.truncateReceived (s : State) (l : LineNo) (p : Nat) : State :=
  let t := if s.pageState p = .filling then
      s.pageRecord p [(3, [s.pageFlags p ||| truncatedBit])]
    else s
  let u := t.onPage l (fun x => { x with truncated := true, waiting := [] })
  u.setLine l { u.line l with received := [] }

/-- The waiting line first in order committed to the page, a substitute raising the record's
substituted lines in the same burst (R74, R136, R137). -/
def State.commitWaiting (s : State) (l : LineNo) (p : Nat) (enc : EncodeFrame) (w : WaitingLine) :
    State :=
  let c := enc.code w.pixels
  let extra := if w.substitute then [(0x12, leBytes 2 (s.substituted p + 1))] else []
  match s.commit p c.bits extra with
  | .made t =>
    (t.onPage l (fun x => { x with waiting := x.waiting.drop 1 })).onLn l (fun k =>
      { k with receive := k.receive.map (fun r => { r with enc := some (enc.advance w.pixels c) }) })
  | .refusedLeaf | .refusedLines | .refusedState => s.truncateReceived l p

/-- The next line of the Parcel in hand decoded and placed; a line error loses the rest (R69, R136). -/
def State.decodeParcelLine (s : State) (l : LineNo) (coding : Coding) (r : ReceiveHalf)
    (b : List Byte) : State :=
  let h := parcelHeader b
  match readLine coding (parcelBits b) r.bit r.reference with
  | none => (s.onPage l (fun x => x.substituteTo (h.first + h.count))).endParcel l
  | some (pixels, after) =>
    let i := h.first + r.decoded
    let t := s.onPage l (fun x =>
      if x.cursor ≤ i then
        { (x.placed [{ pixels := pixels, substitute := false }] (i + 1)) with lastGood := some pixels }
      else x)
    let r' := { r with bit := after, decoded := r.decoded + 1, reference := pixels }
    let u := t.onLn l (fun c => { c with receive := some r' })
    if h.count ≤ r.decoded + 1 then u.endParcel l else u

/-- A grant of a receiving line context: a waiting line first, then the Parcel in hand (R74, log 22). -/
def State.lnReceiveGrant (s : State) (l : LineNo) : State :=
  match (s.line l).link, s.lnContext l with
  | some k, some c =>
    match k.page, c.receive with
    | some x, some r =>
      match x.waiting, x.output, r.enc with
      | w :: _, .stored p, some enc => s.commitWaiting l p enc w
      | w :: _, .through, _ =>
        (s.handThrough w.pixels).onPage l (fun x => { x with waiting := x.waiting.drop 1 })
      | _, _, _ =>
        match (s.line l).received with
        | b :: _ => s.decodeParcelLine l (c.coding.getD .plain) r b
        | [] => s
    | _, _ => s
  | _, _ => s

/-! ### Verdicts, seals and resends (R139 to R141) -/

/-- FINISHING ends: both buffers empty and no line waiting (R138). -/
def State.finishingDone (s : State) (l : LineNo) : Bool :=
  match (s.line l).link with
  | some { page := some x, phase := .finishing, .. } =>
    (s.line l).state == .linked && (s.line l).pump.sending.isNone && x.waiting.isEmpty
      && (s.line l).received.isEmpty
  | _ => false

/-- The page is over threshold (R139). -/
def State.overThreshold (s : State) (p : Nat) : Bool :=
  decide (s.poorThreshold < s.substituted p) || s.pageTruncated p

/-- The loss of a copy: substituted lines, and for a TRUNCATED copy the lines it falls short of its
PAGE END count (R141). -/
def State.loss (s : State) (p announced : Nat) : Nat :=
  s.substituted p + (if s.pageTruncated p then announced - s.pageLines p else 0)

/-- A stored page that is no resend is sealed (R140): after POOR it is awaited, after GOOD it goes to
auto-print. -/
def State.sealFirst (s : State) (l : LineNo) (p announced : Nat) (poor : Bool) (flags : Byte) : State :=
  if poor then
    (s.onLink l (fun k => { k with awaited := some { page := p, announced := announced } })).sealPage p
      flags
  else (s.sealPage p flags).autoPrint p

/-- A resend is sealed and the choice between it and the awaited copy made: the smaller loss is kept,
the resend on equal losses, the other dropped REPLACED, the kept one handed to auto-print (R141). The
losses are those before the seal, also where the seal frees the resend (DESIGN CHOICE, log 64). -/
def State.sealResend (s : State) (l : LineNo) (p announced : Nat) (a : Awaited) (flags : Byte) : State :=
  let keepResend := decide (s.loss p announced ≤ s.loss a.page a.announced)
  let t := s.sealPage p flags
  let kept := if keepResend then p else a.page
  let lost := if keepResend then a.page else p
  ((t.dropPage lost EndCode.replaced.code).keepAwaited l).autoPrint kept

/-- The verdict of a page and the flags of its seal (Table 8.5). -/
def State.judge (s : State) (k : Link) (x : ReceivePage) : Judgement × Byte :=
  match x.output with
  | .refused => (.refused, 0)
  | .through => (.good, 0)
  | .stored p =>
    if s.overThreshold p then
      if k.awaited.isNone && s.pageStartMinimum then (.poor, poorBit) else (.good, poorBit)
    else (.good, 0)

/-- The end of a page at its output (R139, R140). -/
def State.endOutput (s : State) (l : LineNo) (k : Link) (x : ReceivePage) (j : Judgement)
    (flags : Byte) : State :=
  let announced := (x.ending.map (fun e => e.1)).getD 0
  match x.output with
  | .stored p =>
    match k.awaited with
    | some a => s.sealResend l p announced a flags
    | none => s.sealFirst l p announced (j == .poor) flags
  | .through => s.endThrough l
  | .refused => s

/-- The verdict decided and sent; the answerer returns to RECEIVING with no page (R139, R140). -/
def State.decideVerdict (s : State) (l : LineNo) : State :=
  match (s.line l).link with
  | some k =>
    match k.page with
    | some x =>
      if s.finishingDone l then
        let (j, flags) := s.judge k x
        let t := s.endOutput l k x j flags
        let last := (x.ending.map (fun e => e.2)).getD false
        let u := t.onLink l (fun k =>
          { k with page := none, phase := .receiving,
                   lastVerdict := some { seq := x.seq, judgement := j, last := last },
                   done := if j = .good then k.done + 1 else k.done })
        (u.sendFresh l (.verdict x.seq j)).startGap l
      else s
    | none => s
  | none => s

end Sys2Proof.Machine
end

