-- ==== Sys2Proof/Machine/Scan.lean ====
section
/-! DEFINITION. The Scan Unit (Sections 5.1, R79 to R86): feeding, reading lines, thresholds, the SC
context, store waits and the ends of a scan. -/

namespace Sys2Proof.Machine

/-! ### Ends and pages -/

/-- The Scan Unit's own fields changed. -/
def State.onScan (s : State) (f : ScanUnit → ScanUnit) : State := { s with scan := f s.scan }

/-- A scan ends with a code and the page dropped at its end, if any: ring empty, SC released, IDLE,
SCAN ENDED raised (R86). -/
def State.endScan (s : State) (code : EndCode) (dropped : Option Nat) : State :=
  let n := s.scan.pagesSealed
  let t := s.onScan (fun u => { u with state := .idle, ring := [], page := none })
  ({ t with engine := { t.engine with sc := none } }).raise
    { kind := .scanEnded, code := some code.code, subject := noSubject, value1 := some n,
      value2 := some (dropped.getD Config.noneWord) }

/-- A scan ends with its page in progress, if any, dropped with the same code (R81, R83, R85, R86). -/
def State.endScanDropping (s : State) (code : EndCode) : State :=
  let t := s.onScan (fun u => { u with ring := [] })
  match s.scan.page with
  | some p => (t.dropPage p code.code).endScan code (some p)
  | none => t.endScan code none

/-- A sheet is fed: FEEDING with the feed step count at 0 (R80). -/
def State.feedSheet (s : State) : State :=
  s.onScan (fun u => { u with state := .feeding, feedSteps := 0, motorSteps := 0 })

/-- The page whose last line is committed is sealed; then the next sheet is fed, or the scan ends
DONE (R84). -/
def State.closeSheet (s : State) (p : Nat) (sheet : Bool) : State :=
  let t := (s.sealPage p 0).onScan (fun u => { u with page := none, pagesSealed := u.pagesSealed + 1 })
  if sheet && decide (t.scan.pagesSealed < t.scan.maxPages) then t.feedSheet else t.endScan .done none

/-- In CLOSING with the ring empty the sheet's page is closed (R84). -/
def State.closeIfEmpty (s : State) (sheet : Bool) : State :=
  match s.scan.state, s.scan.ring, s.scan.page with
  | .closing, [], some p => s.closeSheet p sheet
  | _, _, _ => s

/-! ### Requests (R79, R85) -/

/-- The threshold that the mode and its value name (R79). -/
def thresholdOf (mode v : Nat) : Option Threshold :=
  match mode with
  | 0 => if v ≤ 255 then some (.fixed v) else none
  | 1 => if 8 ≤ v ∧ v ≤ 15 then some (.track v) else none
  | _ => none

/-- The checks of SCAN DOCUMENT, in order (R79): the settings, or the result that refuses it. -/
def State.scanCheck (s : State) (resolution mode v pages : Nat) (sheet : Bool) :
    Except Result (Resolution × Threshold) :=
  match Resolution.ofCode resolution, thresholdOf mode v with
  | some r, some t =>
    if pages < 1 || 50 < pages then .error .argument
    else if s.scan.state ≠ .idle then .error .busy
    else if !sheet then .error .noSheet
    else .ok (r, t)
  | _, _ => .error .argument

/-- A scan accepted: settings taken, SC taken, the first sheet fed (R79). -/
def State.beginScan (s : State) (r : Resolution) (t : Threshold) (pages : Nat) : State :=
  let u := s.onScan (fun x =>
    { x with resolution := r, threshold := t, maxPages := pages, pagesSealed := 0 })
  ({ u with engine := { u.engine with sc := some (EncodeFrame.start 0) } }).feedSheet

/-! ### Feeding (R80) -/

/-- A feeding step that finds EDGE covered: a SCAN page is created and read, or the scan ends
DIRECTORY FULL (R80). -/
def State.edgeFound (s : State) : State :=
  match s.createPage .scan s.scan.resolution Tag.spaces with
  | none => s.endScan .directoryFull none
  | some (t, p) =>
    let u := t.onScan (fun x =>
      { x with state := .reading, page := some p, linesRead := 0, white := 255 })
    { u with engine := { u.engine with sc := some (EncodeFrame.start p) } }

/-- The sheet motor steps n times (R80, R81). -/
def State.stepMotor (s : State) (n : Nat) : State :=
  s.onScan (fun u => { u with motorSteps := u.motorSteps + n })

/-- A feeding motor step (R80). -/
def State.feedStep (s : State) (edge : Bool) : State :=
  if s.scan.state = .feeding && decide (s.scan.feedSteps < 400) then
    if edge then (s.stepMotor 1).edgeFound
    else (s.stepMotor 1).onScan (fun u => { u with feedSteps := u.feedSteps + 1 })
  else s

/-- The 400th step has not found EDGE covered: MISFEED (R80). -/
def State.feedExpired (s : State) : State :=
  if s.scan.state = .feeding && s.scan.feedSteps == 400 then s.endScan .misfeed none else s

/-! ### Reading (R81, R82) -/

/-- The samples of the 1792 pixels: Even sample i is pixel 2i, Odd sample i pixel 1791 − 2i (R81). -/
def mergedSamples (even odd : List Byte) : List Nat :=
  (List.range 1792).map (fun p =>
    if p % 2 = 0 then (even.getD (p / 2) 0).toNat else (odd.getD ((1791 - p) / 2) 0).toNat)

/-- The white level after a line with the largest sample M (R82). -/
def whiteAfter (w m : Nat) : Nat := if w < m then m else w - (w - m) / 16

/-- The white level and the threshold for a line (R82). -/
def lineThreshold (mode : Threshold) (w : Nat) (samples : List Nat) : Nat × Nat :=
  match mode with
  | .fixed t => (w, t)
  | .track q =>
    let v := whiteAfter w (samples.foldl max 0)
    (v, v * q / 16)

/-- A thresholded line: a pixel is black when its sample is less than the threshold (R82). -/
def thresholded (samples : List Nat) (t : Nat) : Raster :=
  BitVec.ofNat 1792 (samples.foldl (fun acc v => 2 * acc + (if v < t then 1 else 0)) 0)

/-- One line read into the ring (R81). -/
def State.readScanLine (s : State) (even odd : List Byte) : State :=
  let samples := mergedSamples even odd
  let (w, t) := lineThreshold s.scan.threshold s.scan.white samples
  s.onScan (fun u =>
    { u with white := w, ring := u.ring ++ [thresholded samples t], linesRead := u.linesRead + 1 })

/-- The motor steps for one line: once in FINE, twice in DRAFT (R81). -/
def Resolution.motorSteps : Resolution → Nat
  | .fine => 1
  | .draft => 2

/-- The motor steps for one line in READING, while the ring has a free slot; EDGE is examined at the
last of the steps (R81, R84). -/
def State.scanLineStep (s : State) (edge sheet : Bool) (even odd : List Byte) : State :=
  if s.scan.state = .reading && decide (s.scan.ring.length < 16) then
    let t := s.stepMotor s.scan.resolution.motorSteps
    if !edge then (t.onScan (fun u => { u with state := .closing })).closeIfEmpty sheet
    else if 2560 ≤ s.scan.linesRead then t.endScanDropping .jam
    else t.readScanLine even odd
  else s

/-! ### The SC context and store waits (R83) -/

/-- SC has work: the ring holds a line and the unit does not wait for store (R73, R83). -/
def State.scWork (s : State) : Bool :=
  match s.scan.state with
  | .reading | .closing => !s.scan.ring.isEmpty && s.engine.sc.isSome
  | .idle | .feeding | .storeWait _ => false

/-- A refused commit: the line stays at the head of the ring, and the unit waits 30.0 s for store
(R83). -/
def State.waitForStore (s : State) : State :=
  s.onScan (fun u =>
    { u with state := .storeWait (u.state == .closing), waitUntil := s.time.runClock + 300 })

/-- A grant of SC: the oldest line of the ring coded and committed (R83, R84). -/
def State.scGrant (s : State) (sheet : Bool) : State :=
  match s.engine.sc, s.scan.ring with
  | some f, x :: rest =>
    let c := f.code x
    match s.commit f.page c.bits [] with
    | .made t =>
      let u := { t with engine := { t.engine with sc := some (f.advance x c) } }
      (u.onScan (fun v => { v with ring := rest })).closeIfEmpty sheet
    | .refusedLeaf | .refusedLines | .refusedState => s.waitForStore
  | _, _ => s

/-- The store wait timer runs out: STORE FULL (R83). -/
def State.storeWaitExpired (s : State) : State :=
  match s.scan.state with
  | .storeWait _ => if s.reached s.scan.waitUntil then s.endScanDropping .storeFull else s
  | _ => s

end Sys2Proof.Machine
end

