-- ==== Sys2Proof/Machine/Compose.lean ====
section
/-! DEFINITION. Composing through a COMPOSE Aperture (Section 5.3, R87 to R92): the compose
transform, the CP contexts, closing, truncation, sealing and unbinding. -/

namespace Sys2Proof.Machine

/-! ### Apertures, lines and bytes (R7) -/

/-- An entry of the Aperture Table copy. -/
def State.aperture (s : State) (e : Fin 8) : Aperture := s.path.copy[e]

/-- An entry of the copy replaced. -/
def State.setAperture (s : State) (e : Fin 8) (x : Aperture) : State :=
  { s with path := { s.path with copy := s.path.copy.set e x } }

/-- The binding of an entry made or removed. -/
def State.bind (s : State) (e : Fin 8) (b : Option Binding) : State :=
  s.setAperture e { s.aperture e with binding := b }

/-- The page line at a host address of a COMPOSE or RASTER entry (R7). -/
def Aperture.lineOf (x : Aperture) (addr : Nat) : Nat := x.origin + (addr - x.base) / x.stride

/-- The byte within the line at a host address (R7). -/
def Aperture.byteOf (x : Aperture) (addr : Nat) : Nat := (addr - x.base) % x.stride

/-- Byte j of a Raster Line, byte 0 the leftmost (Conventions, Pixels). -/
def lineByte (x : Raster) (j : Nat) : Byte := x.extractLsb' (8 * (223 - j)) 8

/-- Byte j of a Raster Line replaced. -/
def setLineByte (x : Raster) (j : Nat) (v : Byte) : Raster :=
  (x &&& ~~~((0xFF : Raster) <<< (8 * (223 - j)))) ||| (v.setWidth 1792 <<< (8 * (223 - j)))

/-- The bytes that a word write selects, from byte b of a line on, replaced. -/
def setLineWord (x : Raster) (b : Nat) (data : Word) (be : Enables) : Raster :=
  (List.range 4).foldl (fun y i => if be.getLsbD i then setLineByte y (b + i) (Word.byte data i) else y) x

/-! ### Contexts -/

/-- A compose context. -/
def State.compose (s : State) (i : Fin 2) : Option ComposeContext := s.engine.cp[i]

/-- A compose context replaced. -/
def State.setCp (s : State) (i : Fin 2) (c : Option ComposeContext) : State :=
  { s with engine := { s.engine with cp := s.engine.cp.set i c } }

/-- The compose context, with its number, that an entry of kind COMPOSE is bound to. -/
def State.composeOf (s : State) (e : Fin 8) : Option (Fin 2 × ComposeContext) :=
  match (s.aperture e).kind, (s.aperture e).binding with
  | .compose, some b => (s.compose b.ctx).map (fun c => (b.ctx, c))
  | _, _ => none

/-- A compose context as OPEN COMPOSE takes it (R87). -/
def ComposeContext.start (e : Fin 8) (p : Nat) : ComposeContext :=
  { entry := e, enc := EncodeFrame.start p, current := none, closedThrough := none, lead := 0,
    queue := [], disorder := false, window := .opened }

/-- A write that waits for a slot of an entry's queue ends normally and is discarded (R89). -/
def State.endComposeWait (s : State) (e : Fin 8) : State :=
  match s.path.waiting with
  | some { why := .composeSlot f, .. } => if f = e then s.endCycle none else s
  | _ => s

/-! ### The compose transform (R88, R89) -/

/-- The closed-line queue has a free slot (Section 5.3). -/
def ComposeContext.hasSlot (c : ComposeContext) : Bool := decide (c.queue.length < 2)

/-- The current line closed: it enters the queue with the present lead (R88, case 4). -/
def ComposeContext.close (c : ComposeContext) : ComposeContext :=
  match c.current with
  | some (line, pixels) =>
    { c with queue := c.queue ++ [{ index := line, pixels := pixels, lead := c.lead }],
             closedThrough := some line, lead := 0, current := none }
  | none => c

/-- Lines passed over before a new current line when there is none (R88, case 5). -/
def ComposeContext.passed (c : ComposeContext) (line : Nat) : Nat :=
  match c.closedThrough with
  | some k => line - k - 1
  | none => line

/-- A write at a line and byte by the cases of R88; none where it must wait for a slot (R89). -/
def ComposeContext.write (c : ComposeContext) (line b : Nat) (data : Word) (be : Enables) :
    Option ComposeContext :=
  let drawn := fun (x : Raster) => setLineWord x b data be
  if c.window ≠ .opened || be == 0 || decide (224 ≤ b) then some c
  else if 2560 ≤ line then some c
  else
    match c.current with
    | some (at_, pixels) =>
      if line = at_ then some { c with current := some (at_, drawn pixels) }
      else if at_ < line then
        if c.hasSlot then
          some { c.close with lead := line - at_ - 1, current := some (line, drawn Raster.white) }
        else none
      else some { c with disorder := true }
    | none =>
      if c.closedThrough.isNone || decide ((c.closedThrough.getD 0) < line) then
        some { c with lead := c.lead + c.passed line, current := some (line, drawn Raster.white) }
      else some { c with disorder := true }

/-! ### The CP contexts (R89, R90) -/

/-- A CP context has work (R73, R89). -/
def ComposeContext.work (c : ComposeContext) : Bool := !c.queue.isEmpty || decide (0 < c.lead)

/-- The line that the context codes next, and the context once it is committed (R89). -/
def ComposeContext.nextLine (c : ComposeContext) : Raster × ComposeContext :=
  match c.queue with
  | x :: rest =>
    if 0 < x.lead then (Raster.white, { c with queue := { x with lead := x.lead - 1 } :: rest })
    else (x.pixels, { c with queue := rest })
  | [] => (Raster.white, { c with lead := c.lead - 1 })

/-- The flags byte that goes with a compose page's next line or its seal while the mark is set. -/
def disorderFlag (c : ComposeContext) : Byte := if c.disorder then disorderBit else 0

/-- The compose page is truncated (R90). -/
def State.truncateCompose (s : State) (i : Fin 2) (c : ComposeContext) : State :=
  let p := c.enc.page
  let t := if s.pageState p = .filling then
      s.pageRecord p [(3, [s.pageFlags p ||| truncatedBit ||| disorderFlag c])]
    else s
  (t.setCp i (some { c with current := none, lead := 0, queue := [], disorder := false,
                            window := .truncated })).endComposeWait c.entry

/-- A grant of a CP context: one line coded and committed, or the page truncated (R89, R90). -/
def State.cpGrant (s : State) (i : Fin 2) : State :=
  match s.compose i with
  | some c =>
    let (x, after) := c.nextLine
    let coded := c.enc.code x
    let extra := if c.disorder then [(3, [s.pageFlags c.enc.page ||| disorderBit])] else []
    match s.commit c.enc.page coded.bits extra with
    | .made t => t.setCp i (some { after with enc := c.enc.advance x coded, disorder := false })
    | .refusedLeaf | .refusedLines | .refusedState => s.truncateCompose i c
  | none => s

/-! ### Requests (R87, R91, R92) -/

/-- The lowest-numbered FREE compose context (R71). -/
def State.freeCp (s : State) : Option (Fin 2) := ([0, 1] : List (Fin 2)).find? (fun i => (s.compose i).isNone)

/-- An Aperture number of a request, when it is at most 7. -/
def apertureNumber (n : Nat) : Option (Fin 8) := if h : n < 8 then some ⟨n, h⟩ else none

/-- OPEN COMPOSE up to its page: the checks in order (R87). -/
def State.openComposeCheck (s : State) (e : Fin 8) (resolution : Nat) :
    Except Result (Resolution × Fin 2) :=
  match Resolution.ofCode resolution with
  | none => .error .argument
  | some r =>
    if !(s.aperture e).valid || (s.aperture e).kind != .compose then .error .argument
    else if (s.aperture e).binding.isSome then .error .state
    else
      match s.freeCp with
      | none => .error .busy
      | some i => .ok (r, i)

/-- An entry bound to a new compose page and its context (R87). -/
def State.openCompose (s : State) (e : Fin 8) (p : Nat) (i : Fin 2) : State :=
  (s.setCp i (some (ComposeContext.start e p))).bind e (some { page := p, ctx := i })

/-- SEAL COMPOSE sets the window to CLOSING; a TRUNCATED one stays so (R91). -/
def State.closeWindow (s : State) (e : Fin 8) (i : Fin 2) (c : ComposeContext) : State :=
  if c.window = .truncated then s
  else (s.setCp i (some { c with window := .closing })).endComposeWait e

/-- The current line of a sealing page closed as soon as a slot is free (R91). -/
def State.closeForSeal (s : State) (i : Fin 2) : State :=
  match s.compose i with
  | some c => if c.current.isSome && c.hasSlot then s.setCp i (some c.close) else s
  | none => s

/-- A sealing page is ready: truncated, or nothing left to code (R91). -/
def ComposeContext.sealable (c : ComposeContext) : Bool :=
  c.window == .truncated || (c.current.isNone && c.queue.isEmpty)

/-- The compose page sealed, unbound and its context released (R91). -/
def State.sealCompose (s : State) (e : Fin 8) (i : Fin 2) (c : ComposeContext) : State :=
  ((s.sealPage c.enc.page (disorderFlag c)).bind e none).setCp i none

/-- UNBIND of a compose entry: the page dropped, the binding removed, the context released (R92). -/
def State.unbindCompose (s : State) (e : Fin 8) (i : Fin 2) (c : ComposeContext) : State :=
  (((s.endComposeWait e).dropPage c.enc.page EndCode.unbind.code).bind e none).setCp i none

/-- At a restart a compose page still FILLING is dropped and its context released (R92). -/
def State.restartCompose (s : State) (i : Fin 2) : State :=
  match s.compose i with
  | some c =>
    let t := if s.pageState c.enc.page = .filling then s.dropPage c.enc.page EndCode.restart.code else s
    t.setCp i none
  | none => s

end Sys2Proof.Machine
end

