-- ==== Sys2Proof/Machine/View.lean ====
section
/-! DEFINITION. The raster view (Chapter 6): reads, the cache, decoding towards a target, prefetch,
binding and unbinding. -/

namespace Sys2Proof.Machine

/-! ### The cache (R93) -/

/-- A line of the cache. -/
def ViewContext.cached (v : ViewContext) (line : Nat) : Option Raster :=
  (v.cache.find? (fun (x : Nat × Raster) => x.1 == line)).map (fun x => x.2)

/-- A line enters the cache as its most recent entry, the oldest of four leaving first (R93, R99). A line that
is held takes the place of its own entry, and no other leaves (DESIGN CHOICE, log 81). -/
def ViewContext.enter (v : ViewContext) (line : Nat) (x : Raster) : ViewContext :=
  let kept := v.cache.filter (fun (y : Nat × Raster) => y.1 != line)
  { v with cache := (if kept.length < 4 then kept else kept.drop 1) ++ [(line, x)] }

/-- The prefetch line after a read of a line is served (R104). -/
def prefetchAfter (line : Nat) : Option Nat := if line < 2559 then some (line + 1) else none

/-- A read served from the cache: the entry is the most recent, and the prefetch line is set (R97,
R104). -/
def ViewContext.served (v : ViewContext) (line : Nat) (x : Raster) : ViewContext :=
  { v.enter line x with fetch := prefetchAfter line }

/-- The word that a read takes from byte b of a line (R96). -/
def lineWord (x : Raster) (b : Nat) (be : Enables) : Word :=
  BitVec.ofNat 32 (leValue ((List.range 4).map (fun i => if be.getLsbD i then lineByte x (b + i) else 0)))

/-- A raster context. -/
def State.view (s : State) (i : Fin 2) : Option ViewContext := s.engine.rv[i]

/-- The view, with its number, that an entry of kind RASTER is bound to. -/
def State.viewOf (s : State) (e : Fin 8) : Option (Fin 2 × ViewContext) :=
  match (s.aperture e).kind, (s.aperture e).binding with
  | .raster, some b => (s.view b.ctx).map (fun v => (b.ctx, v))
  | _, _ => none

/-! ### Serving a read (R96 to R98) -/

/-- A read that selects bytes is served with zero data without waits (R96). -/
def State.readsWhite (s : State) (p line b : Nat) : Bool :=
  decide (224 ≤ b) || decide (2560 ≤ line) || s.pageState p == .dropped
    || (s.pageState p == .sealed && decide (s.pageLines p ≤ line))

/-- Where a view decodes from towards a line (R98): onward, from the restart line, or no start. A frame at or
past the restart line goes on also where the line's Restart Table entry is NONE (DESIGN CHOICE, log 70). -/
def State.viewStart (s : State) (v : ViewContext) (line : Nat) : Option DecodeFrame :=
  let r := 64 * (line / 64)
  if r ≤ v.dec.next ∧ v.dec.next ≤ line then some v.dec
  else if r < s.pageLines v.dec.page then some (s.reposition v.dec r)
  else none

/-- The next line towards a line is decodable (R99). -/
def State.viewDecodable (s : State) (v : ViewContext) (line : Nat) : Bool :=
  match s.viewStart v line with
  | some f => decide (f.next < s.pageLines v.dec.page)
  | none => false

/-- A view has work in the first class: a waiting read's line is not cached and can be approached
(R73, R99). -/
def State.viewWorkRead (s : State) (v : ViewContext) : Bool :=
  match v.target with
  | some line =>
    (v.cached line).isNone && s.pageState v.dec.page != .dropped && s.viewDecodable v line
  | none => false

/-- A view has work in the seventh class: its prefetch line (R104). -/
def State.viewWorkAhead (s : State) (v : ViewContext) : Bool :=
  match v.target, v.fetch with
  | none, some line =>
    (v.cached line).isNone && s.pageState v.dec.page != .dropped && decide (line < 2560)
      && !(s.pageState v.dec.page == .sealed && decide (s.pageLines v.dec.page ≤ line))
      && s.viewDecodable v line
  | _, _ => false

/-- The line a view decodes towards: the target, or the prefetch line. -/
def ViewContext.goal (v : ViewContext) : Option Nat := v.target <|> v.fetch

/-- A grant of a raster context: one line towards its goal decoded into the cache (R99, R104). -/
def State.rvGrant (s : State) (i : Fin 2) : State :=
  match s.view i with
  | some v =>
    match v.goal with
    | some line =>
      match s.viewStart v line with
      | some f =>
        let d := s.decodeNext f
        s.setRv i (some { v.enter f.next d.pixels with dec := d.frame })
      | none => s
    | none => s
  | none => s

/-- A read of a bound view (R96 to R98): served white, served from the cache, or waiting with the
line as target. -/
def State.viewRead (s : State) (c : Cycle) (e : Fin 8) (i : Fin 2) (v : ViewContext) : State :=
  let x := s.aperture e
  let line := x.lineOf c.addr
  let b := x.byteOf c.addr
  if c.be == 0 || s.readsWhite v.dec.page line b then s.endCycle (some 0)
  else
    match v.cached line with
    | some pixels =>
      (s.setRv i (some (v.served line pixels))).endCycle (some (lineWord pixels b c.be))
    | none =>
      let t := s.setRv i (some { v with target := some line })
      { t with path := { t.path with waiting := some { cycle := c, why := .view e }, ending := none } }

/-- A waiting read whose line is now in the cache returns its bytes (R99). -/
def State.viewReadDone (s : State) : State :=
  match s.path.waiting, s.waitingView with
  | some w, some (i, v) =>
    match v.target with
    | some line =>
      match v.cached line with
      | some pixels =>
        (s.setRv i (some { v.served line pixels with target := none })).endCycle
          (some (lineWord pixels ((s.aperture v.entry).byteOf w.cycle.addr) w.cycle.be))
      | none => s
    | none => s
  | _, _ => s

/-- The Hold Limit runs out on a waiting view read: target none, prefetch line the read's (R102). -/
def State.viewReadExpired (s : State) : State :=
  match s.waitingView with
  | some (i, v) => s.setRv i (some { v with target := none, fetch := v.target })
  | none => s

/-! ### Binding and unbinding (R94, R95) -/

/-- The lowest-numbered FREE raster context (R71). -/
def State.freeRv (s : State) : Option (Fin 2) := ([0, 1] : List (Fin 2)).find? (fun i => (s.view i).isNone)

/-- The checks of BIND RASTER after its Aperture number, in order (R94): the state with the Reference
taken and the context, or the result that refuses it. -/
def State.bindRasterCheck (s : State) (e : Fin 8) (p : Nat) : Except Result (State × Fin 2) :=
  if 127 < p || !(s.aperture e).valid || (s.aperture e).kind != .raster then .error .argument
  else if (s.aperture e).binding.isSome then .error .state
  else
    match s.freeRv with
    | none => .error .busy
    | some i =>
      if s.pageState p ≠ .filling ∧ s.pageState p ≠ .sealed then .error .noPage
      else
        match s.takeReference p [.filling, .sealed] Config.maxReferences with
        | none => .error .full
        | some t => .ok (t, i)

/-- An entry bound to a page and a raster context (R94). -/
def State.bindRaster (s : State) (e : Fin 8) (p : Nat) (i : Fin 2) : State :=
  (s.setRv i (some { entry := e, dec := s.decodeStart p, cache := [], target := none,
                     fetch := some (s.aperture e).origin })).bind e (some { page := p, ctx := i })

/-- A read that waits on an entry's view ends UNBOUND (R103). -/
def State.endViewWait (s : State) (e : Fin 8) : State :=
  match s.path.waiting with
  | some { cycle := c, why := .view f } => if f = e then s.endError c .unbound else s
  | _ => s

/-- UNBIND of a view: binding removed, waiting read ended, context released, Reference dropped
(R95). -/
def State.unbindRaster (s : State) (e : Fin 8) (i : Fin 2) (v : ViewContext) : State :=
  (((s.bind e none).endViewWait e).setRv i none).dropReference v.dec.page

/-- At a restart a view is ended as an UNBIND ends it (R93). -/
def State.restartView (s : State) (i : Fin 2) : State :=
  match s.view i with
  | some v => (s.setRv i none).dropReference v.dec.page
  | none => s

end Sys2Proof.Machine
end

