-- ==== Sys2Proof/Machine/Engine.lean ====
section
/-! DEFINITION. The Coding Engine's choice (R73, R75): the work of each context, the classes, the
turns, and the grants. -/

namespace Sys2Proof.Machine

/-- The contexts in context order (R75). -/
def contextOrder : List Ctx := [.sc, .cp 0, .cp 1, .rv 0, .rv 1, .pr, .ln 0, .ln 1, .ln 2, .ln 3]

/-- The place of a context in context order. -/
def Ctx.place : Ctx → Nat
  | .sc => 0
  | .cp i => 1 + i.val
  | .rv i => 3 + i.val
  | .pr => 5
  | .ln l => 6 + l.val

/-- The engine class in which a context's work stands; none when it has no work (Table 4.5). -/
def State.engineClass (s : State) : Ctx → Option (Fin 7)
  | .rv i =>
    match s.view i with
    | some v => if s.viewWorkRead v then some 0 else if s.viewWorkAhead v then some 6 else none
    | none => none
  | .ln l => if s.lnReceiveWork l then some 1 else if s.lnSendWork l then some 3 else none
  | .pr => if s.prHasWork then some 2 else none
  | .sc => if s.scWork then some 4 else none
  | .cp i =>
    match s.compose i with
    | some c => if c.work then some 5 else none
    | none => none

/-- Context order from a class's turn on, wrapping from LN3 to SC (R75). -/
def orderFrom (turn : Fin 10) : List Ctx := contextOrder.drop turn.val ++ contextOrder.take turn.val

/-- The READY context that a class grants next (R75). -/
def State.chosenInClass (s : State) (k : Fin 7) : Option Ctx :=
  (orderFrom s.engine.turns[k]).find? (fun c => s.engineClass c == some k)

/-- The context that the engine grants: the READY one of the lowest class, by turn (R75). -/
def State.engineChoice (s : State) : Option (Fin 7 × Ctx) :=
  ([0, 1, 2, 3, 4, 5, 6] : List (Fin 7)).findSome? (fun k => (s.chosenInClass k).map (fun c => (k, c)))

/-- A class's turn starts at the next context after the one granted (R75). -/
def State.turnAfter (s : State) (k : Fin 7) (c : Ctx) : State :=
  { s with engine := { s.engine with turns := s.engine.turns.set k (Fin.ofNat 10 (c.place + 1)) } }

/-- A grant of the engine when its choice is a context of the wanted sort (R74, R75); otherwise
nothing happens (log 3). -/
def State.grant (s : State) (wanted : Ctx → Bool) (act : State → Ctx → State) : State :=
  match s.engineChoice with
  | some (k, c) => if wanted c then (act s c).turnAfter k c else s
  | none => s

/-- SC_GRANT. -/
def State.grantSc (s : State) (sheet : Bool) : State :=
  s.grant (fun c => c == .sc) (fun t _ => t.scGrant sheet)

/-- CP_GRANT. -/
def State.grantCp (s : State) : State :=
  s.grant (fun c => c == .cp 0 || c == .cp 1) (fun t c => match c with
    | .cp i => t.cpGrant i
    | _ => t)

/-- RV_GRANT. -/
def State.grantRv (s : State) : State :=
  s.grant (fun c => c == .rv 0 || c == .rv 1) (fun t c => match c with
    | .rv i => t.rvGrant i
    | _ => t)

/-- PR_GRANT. -/
def State.grantPr (s : State) : State := s.grant (fun c => c == .pr) (fun t _ => t.prGrant)

/-- A line context is granted as a sender or as a receiver, by its work (R73). -/
def State.lineWanted (s : State) (receiving : Bool) (c : Ctx) : Bool :=
  match c with
  | .ln l => s.lnReceiveWork l == receiving
  | _ => false

/-- LN_SEND_GRANT. -/
def State.grantSend (s : State) : State :=
  s.grant (s.lineWanted false) (fun t c => match c with
    | .ln l => t.lnSendGrant l
    | _ => t)

/-- LN_RECEIVE_GRANT. -/
def State.grantReceive (s : State) : State :=
  s.grant (s.lineWanted true) (fun t c => match c with
    | .ln l => t.lnReceiveGrant l
    | _ => t)

end Sys2Proof.Machine
end

