-- ==== Sys2Proof/Machine/Look.lean ====
section
/-! DEFINITION. The Dispatcher's look (R147 to R150). -/

namespace Sys2Proof.Machine

/-- A line is IDLE and its held direction lets it take incoming calls. -/
def LineChannel.idleIncoming (x : LineChannel) : Bool :=
  x.state == .idle && x.held.direction != .outgoing

/-- The IDLE lines allowed IN or BOTH, not counting a line taken (R149). -/
def State.incomingLines (s : State) (taken : LineNo) : Nat :=
  allLines.countP (fun l => l != taken && (s.line l).idleIncoming)

/-- A choice may take a line: IDLE, held OUT or BOTH, and the Incoming Reserve kept (R149). No line
can refuse a seize order here, since the choice and the order are one step (log 14). -/
def State.canSeize (s : State) (l : LineNo) : Bool :=
  (s.line l).state == .idle && (s.line l).held.direction != .incoming
    && decide (s.dispatcher.incomingReserve ≤ s.incomingLines l)

/-- The line that a choice takes, in number order (R149). -/
def State.chosenLine (s : State) : Option LineNo := allLines.find? s.canSeize

/-- A destination handed to a line: seized, and CALLING with its line recorded (R149); no count of its job
changes, and its Job Status is not written (DESIGN CHOICE, log 91). -/
def State.handOut (s : State) (l : LineNo) (j d : Nat) : State :=
  (s.seize l j d).setDestination j d { s.destination j d with state := .calling, line := l.val }

/-- The Dispatcher reads the records of the jobs on the submit list, for one choice (R143, R147). -/
def State.readJobs (s : State) : State :=
  match s.dispatcher.submitList with
  | [] => s
  | _ => s.readRecord .dispatcher

/-- The choices of a look, each on the records as they are read, repeated until one finds no destination or
no line (R147). The fuel is one more than the lines there are. -/
def State.choices : Nat → State → State
  | 0, s => s
  | fuel + 1, s =>
    match s.chosenDestination, s.chosenLine with
    | some (j, d), some l => State.choices fuel (s.readJobs.handOut l j d)
    | _, _ => s.readJobs

/-- A look, when a cause of one is pending and the part is RUNNING (R147; log 36). While a LOCKED sequence
holds the third class back, the look waits for its record reads (R12, R13; log 11). -/
def State.look (s : State) : State :=
  if s.isRunning && s.dispatcher.lookPending && !s.path.hold then
    (State.choices 5 { s with dispatcher := { s.dispatcher with lookPending := false } }).finishLines
  else s

end Sys2Proof.Machine
end

