-- ==== Sys2Proof/Machine/Requests.lean ====
section
/-! DEFINITION. The fourteen requests of the Request Ring, each executed by its block and answered by
REQUEST DONE (R30, R31). Each acts when the Request Unit can take the entry at the take index and
that entry is of its kind (log 3). -/

namespace Sys2Proof.Machine

/-- The kinds of request (Section 12.3). -/
inductive RequestKind where
  | scanDocument | stopScan | openCompose | pushCompose | sealCompose | bindRaster | unbind
  | releasePage | submitSend | cancelSend | printPage | cancelPrint | settleDesk | abortLine
deriving DecidableEq, Repr

/-- The code of a request kind. -/
def RequestKind.code : RequestKind → Nat
  | .scanDocument => 1
  | .stopScan => 2
  | .openCompose => 3
  | .pushCompose => 4
  | .sealCompose => 5
  | .bindRaster => 6
  | .unbind => 7
  | .releasePage => 8
  | .submitSend => 9
  | .cancelSend => 10
  | .printPage => 11
  | .cancelPrint => 12
  | .settleDesk => 13
  | .abortLine => 14

/-- The words that a request of a kind puts under protection once it begins: the job's entry and the
host halves of its destinations, or the Aperture's entry (R20). -/
def State.claims (s : State) (k : RequestKind) (off : Nat) : Bool :=
  let n := s.argument 1
  let within := fun (base size : Nat) => decide (base ≤ off) && decide (off < base + size)
  match k with
  | .submitSend => within (Config.sendJobs + 32 * n) 32 || within (Config.destinations + 1536 * n) 1536
  | .openCompose | .bindRaster => within (Config.apertureTable + 32 * n) 32
  | _ => false

/-- A host write to a word that the request is to claim waits for its access: it was taken first, and
the request finds the entry as it leaves it (R20; log 31). -/
def State.claimWaits (s : State) (k : RequestKind) : Bool :=
  match s.path.waiting with
  | some w => w.cycle.write && s.claims k (w.cycle.addr - s.regionBase)
  | none => false

/-- A request of a kind carried out when it is the one the Request Unit takes, its entry read as one record
(R13, R30), after any host write to its entry that waits (R20). -/
def State.onRequest (s : State) (k : RequestKind) (act : State → State) : State :=
  if s.requestIs k.code && !s.claimWaits k then act (s.readRecord .requestUnit) else s

/-- A request of a kind answered (R31). -/
def State.reply (s : State) (k : RequestKind) (r : Result) (v1 v2 : Option Nat := none) : State :=
  s.answer k.code r v1 v2

/-! ### Scan Unit (R79, R85) -/

/-- SCAN DOCUMENT. -/
def State.reqScan (s : State) (sheet : Bool) : State :=
  match s.scanCheck (s.argument 1) (s.argument 2) (s.argument 3) (s.argument 4) sheet with
  | .ok (r, t) => (s.beginScan r t (s.argument 4)).reply .scanDocument .ok
  | .error e => s.reply .scanDocument e

/-- STOP SCAN. -/
def State.reqStopScan (s : State) : State :=
  if s.scan.state = .idle then s.reply .stopScan .state
  else (s.endScanDropping .stopped).reply .stopScan .ok

/-! ### Compose (R87, R91) -/

/-- OPEN COMPOSE. -/
def State.reqOpenCompose (s : State) : State :=
  match apertureNumber (s.argument 1) with
  | none => s.reply .openCompose .argument
  | some e =>
    match s.openComposeCheck e (s.argument 2) with
    | .error x => s.reply .openCompose x
    | .ok (r, i) =>
      match s.createPage .compose r Tag.spaces with
      | none => s.reply .openCompose .full
      | some (t, p) => (t.openCompose e p i).reply .openCompose .ok (some p) (some i.val)

/-- The entry of a request and the compose context it is bound to, or the result that refuses it
(R91). -/
def State.composeArgument (s : State) : Except Result (Fin 8 × Fin 2 × ComposeContext) :=
  match apertureNumber (s.argument 1) with
  | none => .error .argument
  | some e =>
    match s.composeOf e with
    | none => .error .state
    | some (i, c) => .ok (e, i, c)

/-- The current line of a PUSH COMPOSE closed, and the request answered with its index (R91). -/
def State.pushNow (s : State) (i : Fin 2) (c : ComposeContext) : State :=
  (s.setCp i (some c.close)).reply .pushCompose .ok
    (some ((c.current.map (fun x => x.1)).getD Config.noneWord))

/-- PUSH COMPOSE on a context: answered at once where there is nothing to close or a slot is free,
waiting otherwise. -/
def State.pushOn (s : State) (e : Fin 8) (i : Fin 2) (c : ComposeContext) : State :=
  if c.window = .truncated then s.reply .pushCompose .ok (some Config.noneWord)
  else if c.current.isNone || c.hasSlot then s.pushNow i c
  else { s with request := { s.request with executing := some (.push e s.requestTag) } }

/-- PUSH COMPOSE. -/
def State.reqPush (s : State) : State :=
  match s.composeArgument with
  | .error x => s.reply .pushCompose x
  | .ok (e, i, c) => s.pushOn e i c

/-- A waiting PUSH COMPOSE goes on (R91), with the line that is current then (DESIGN CHOICE, log 62). -/
def State.pushResume (s : State) : State :=
  match s.request.executing with
  | some (.push e _) =>
    match s.composeOf e with
    | some (i, c) => s.pushOn e i c
    | none => s
  | _ => s

/-- SEAL COMPOSE goes on: the current line closed when a slot is free, and the page sealed and the
request answered when it is ready (R91). -/
def State.sealOn (s : State) (e : Fin 8) (i : Fin 2) : State :=
  let t := s.closeForSeal i
  match t.compose i with
  | some c =>
    if c.sealable then
      (t.sealCompose e i c).reply .sealCompose .ok (some c.enc.page) (some (t.pageLines c.enc.page))
    else { t with request := { t.request with executing := some (.seal e t.requestTag) } }
  | none => t

/-- SEAL COMPOSE. -/
def State.reqSeal (s : State) : State :=
  match s.composeArgument with
  | .error x => s.reply .sealCompose x
  | .ok (e, i, c) => (s.closeWindow e i c).sealOn e i

/-- A waiting SEAL COMPOSE goes on (R91). -/
def State.sealResume (s : State) : State :=
  match s.request.executing with
  | some (.seal e _) =>
    match s.composeOf e with
    | some (i, _) => s.sealOn e i
    | none => s
  | _ => s

/-! ### Views (R92, R94, R95) -/

/-- BIND RASTER. -/
def State.reqBind (s : State) : State :=
  match apertureNumber (s.argument 1) with
  | none => s.reply .bindRaster .argument
  | some e =>
    match s.bindRasterCheck e (s.argument 2) with
    | .error x => s.reply .bindRaster x
    | .ok (t, i) =>
      (t.bindRaster e (s.argument 2) i).reply .bindRaster .ok (some i.val)
        (some (s.pageLines (s.argument 2)))

/-- UNBIND. -/
def State.reqUnbind (s : State) : State :=
  match apertureNumber (s.argument 1) with
  | none => s.reply .unbind .argument
  | some e =>
    match s.composeOf e, s.viewOf e with
    | some (i, c), _ => (s.unbindCompose e i c).reply .unbind .ok (some c.enc.page)
    | none, some (i, v) =>
      let t := s.unbindRaster e i v
      t.reply .unbind .ok (some v.dec.page) (some (t.references v.dec.page))
    | none, none => s.reply .unbind .state

/-! ### Store Unit (R50) -/

/-- RELEASE PAGE. -/
def State.reqRelease (s : State) : State :=
  let p := s.argument 1
  if 127 < p then s.reply .releasePage .argument
  else if s.pageState p = .free then s.reply .releasePage .noPage
  else if !s.pageOwned p then s.reply .releasePage .state
  else
    let t := s.dropOwner p
    t.reply .releasePage .ok (some (t.references p))

/-! ### Dispatcher (R145, R146, R153) -/

/-- SUBMIT SEND. -/
def State.reqSubmit (s : State) : State :=
  let j := s.argument 1
  match s.submitResult j with
  | .ok =>
    let t := s.submit j
    t.reply .submitSend .ok (some (t.countIn j [.pending])) (some (t.countIn j [.barred, .invalid]))
  | r => s.reply .submitSend r

/-- CANCEL SEND: the records first and the answer, then the clear orders to the lines of its CALLING
destinations, in destination order (R153; logs 42 and 71). -/
def State.reqCancel (s : State) : State :=
  let j := s.argument 1
  match s.cancelResult j with
  | .ok =>
    let calls := s.callingLines j
    let t := (s.cancelJob j).reply .cancelSend .ok (some (s.countIn j [.pending])) (some calls.length)
    (calls.foldl (fun u l => u.clearOrder l .cancelled) t).finishLines
  | r => s.reply .cancelSend r

/-! ### Print Unit (R174, R178) -/

/-- PRINT PAGE: answered, and then the head taken when the unit is IDLE (log 28). -/
def State.reqPrint (s : State) : State :=
  let p := s.argument 1
  let copies := s.argument 2
  if 127 < p || copies < 1 || 99 < copies then s.reply .printPage .argument
  else if s.pageState p ≠ .sealed then s.reply .printPage .noPage
  else
    match s.emptySlot, s.takeReference p [.sealed] Config.maxReferences with
    | some n, some t =>
      let u := t.enterQueue n p copies (flagOf (s.argument 3)) false
      (u.reply .printPage .ok (some n) (some s.print.entryCount)).takeHead
    | _, _ => s.reply .printPage .full

/-- CANCEL PRINT. -/
def State.reqCancelPrint (s : State) : State :=
  let n := s.argument 1
  if 31 < n then s.reply .cancelPrint .argument
  else
    match (s.slot n).state with
    | some .waiting | some .printing =>
      if (s.slot n).cancelled then s.reply .cancelPrint .state
      else (s.cancelItem n).reply .cancelPrint .ok
    | _ => s.reply .cancelPrint .state

/-! ### Charge Unit (R168) -/

/-- SETTLE DESK: the desk settled, the request answered with its state and total, and a look made
pending (R168). The clear orders of a desk that enters CAPPED are taken after the answer (DESIGN
CHOICE, log 68). -/
def State.reqSettle (s : State) : State :=
  let d := s.argument 1
  let cap := nibbles (s.argumentBytes 2)
  let markup := s.argument 3
  if 31 < d || !allDigits cap || 999 < markup then s.reply .settleDesk .argument
  else
    let t := s.settleDesk d (bcdValue cap) markup (flagOf (s.argument 4))
    let u := t.reply .settleDesk .ok (some (flagValue (t.desk d).capped)) (some (bcdWord (t.deskTotal d)))
    ({ u with dispatcher := { u.dispatcher with lookPending := true } }).finishLines

/-! ### Line Channels (R121) -/

/-- A line number of a request, when it is at most 3. -/
def lineNumber (n : Nat) : Option LineNo := if h : n < 4 then some ⟨n, h⟩ else none

/-- ABORT LINE: the hook-on done before the answer, which carries the record's sequence. -/
def State.reqAbort (s : State) : State :=
  match lineNumber (s.argument 1) with
  | none => s.reply .abortLine .argument
  | some l =>
    match (s.line l).state with
    | .idle | .ringing | .resting => s.reply .abortLine .state
    | .seized | .dialling | .alerting | .linked | .clearing =>
      ((s.abort l false).reply .abortLine .ok (some s.charge.sequence.toNat)).finishLines

/-! ### Unknown kinds (R31) -/

/-- An entry whose kind names no request: answered UNKNOWN, with request kind 0. -/
def State.reqUnknown (s : State) : State :=
  if s.canTakeRequest && (s.requestKind == 0 || decide (14 < s.requestKind)) then
    (s.readRecord .requestUnit).answer 0 .unknown
  else s

end Sys2Proof.Machine
end

