-- ==== Sys2Proof/Machine/Start.lean ====
section
/-! DEFINITION. Pin reset, START FRESH, START KEEP, the restart effects, STARTED and the tick of the
clocks (R1, R5, R23 to R27, R53 to R57, R122, R155, R156, R171, R172, R181). -/

namespace Sys2Proof.Machine

/-! ### The Aperture Table copy (R5) -/

/-- The kind that a kind byte names. -/
def ApertureKind.ofCode : Nat → Option ApertureKind
  | 0 => some .compose
  | 1 => some .raster
  | 2 => some .digits
  | _ => none

/-- The conditions under which an entry whose valid field is set enters the copy as valid (R5). -/
def State.apertureGood (s : State) (kind : Option ApertureKind) (x : Aperture) : Bool :=
  decide (x.base % 4096 = 0) && decide (x.length % 4096 = 0) && decide (4096 ≤ x.length)
    && decide (x.length ≤ 1048576) && decide (x.base + x.length ≤ 67108864)
    && (match kind with
      | none => false
      | some .digits => decide (x.target + x.length / 2 ≤ s.regionBase)
      | some _ => (x.stride == 224 || x.stride == 256) && decide (x.origin ≤ 2559))

/-- An entry as memory holds it, with a binding kept (R5, Table 12.3). -/
def State.readAperture (s : State) (e : Fin 8) (binding : Option Binding) : Aperture :=
  let off := Config.apertureTable + 32 * e.val
  let kind := ApertureKind.ofCode (s.valueAt (off + 1) 1)
  let x : Aperture :=
    { valid := flagOf (s.valueAt off 1), kind := kind.getD .compose, base := s.valueAt (off + 4) 4,
      length := s.valueAt (off + 8) 4, userAllowed := flagOf (s.valueAt (off + 2) 1),
      stride := s.valueAt (off + 0x0C) 2, origin := s.valueAt (off + 0x0E) 2,
      target := s.valueAt (off + 0x10) 4, binding := binding }
  { x with valid := x.valid && s.apertureGood kind x }

/-- The Path Unit reads an entry back from memory and replaces the fields of its copy (R5). -/
def State.loadAperture (s : State) (e : Fin 8) : State :=
  s.setAperture e (s.readAperture e (s.aperture e).binding)

/-- Every binding removed, and all eight entries loaded (R5). -/
def State.loadApertures (s : State) : State :=
  { s with path := { s.path with copy := Vector.ofFn (fun e => s.readAperture e none) } }

/-! ### A taken START (R23, R24) -/

/-- The conditions under which a START is taken (R23). -/
def State.startTaken (s : State) (v : Nat) : Bool :=
  let base := s.valueAt Config.leafBase 4
  let count := s.valueAt Config.leafCount 4
  (v == 1 || v == 2) && s.path.state != .starting && decide (base % 4096 = 0)
    && decide (1 ≤ count) && decide (count ≤ 4096)
    && decide (base + Config.leafBytes * count ≤ s.regionBase)

/-- The path state changed and the state word written (R1, R25), as an access of the Path Unit that no
LOCKED sequence holds back (DESIGN CHOICE, log 58). -/
def State.enterPath (s : State) (p : PathState) (code : Nat) : State :=
  ({ s with path := { s.path with state := p } }).poke Config.stateWord (leBytes 4 code)

/-- The Request Unit at a taken START: START FAULT clear, the indices 0, any request abandoned (R24). -/
def RequestUnit.started (r : RequestUnit) : RequestUnit :=
  { r with take := 0, post := 0, produce := 0, consume := 0, startFault := false, executing := none }

/-- The words of the Config Block that a taken START writes (R22, R24, R35). -/
def State.startWords (s : State) : List (Nat × Nat) :=
  [(Config.takeIndex, 0), (Config.postIndex, 0), (Config.produceIndex, 0), (Config.consumeIndex, 0),
   (Config.statusFlags, s.request.flagsWord),
   (Config.interruptEnable, flagValue s.request.interruptEnable),
   (Config.holdLimit, s.path.holdLimit), (Config.receiveReserve, s.store.receiveReserve),
   (Config.poorThreshold, s.poorThreshold), (Config.autoPrint, flagValue s.print.autoPrint),
   (Config.incomingReserve, s.dispatcher.incomingReserve)]

/-- What a LOCKED sequence holds back still stands at a taken START, but for a START FAULT that was yet
to be set (R24; log 11). -/
def Arbiter.started (a : Arbiter) : Arbiter :=
  { a with held := a.held.filter (fun x => x != .flags (some .startFault)) }

/-- The actions of a taken START that are completed before its cycle ends (R24). The words pass no turn of R13
(DEDUCED, log 90). -/
def State.startActions (s : State) : State :=
  let t := ({ s with request := s.request.started, arbiter := s.arbiter.started }).enterPath .starting 1
  let u := t.pokesNow (t.startWords.map (fun (x : Nat × Nat) => (x.1, leBytes 4 x.2)))
  let v := (u.poke Config.faultCause (faultBytes u.path.fault)).loadApertures
  { v with store := { v.store with leafBase := v.valueAt Config.leafBase 4,
                                   leafCount := v.valueAt Config.leafCount 4 } }

/-! ### The restart effects (R25, R122, R86, R92, R93, R181) -/

/-- A line at a restart (R122): its call ended and hook-on done, then IDLE without resting. -/
def State.restartLine (s : State) (l : LineNo) : State :=
  let t := s.abort l true
  t.setLine l ((t.line l).emptied .idle none)

/-- The scan at a restart (R86). -/
def State.restartScan (s : State) : State :=
  if s.scan.state = .idle then s else s.endScanDropping .restart

/-- The Print Unit at a restart: it stops at once without cutting (R181). -/
def State.restartPrint (s : State) : State :=
  let t := s.abandonCopy
  { t with print := { t.print with state := .idle, current := none, buffer := none, owner := none,
                                   throughEnded := false } }

/-- The restart effects, in the order of log 25. -/
def State.restartEffects (s : State) : State :=
  let t := allLines.foldl State.restartLine s
  let u := ((t.restartScan).restartCompose 0).restartCompose 1
  let v := (((u.restartView 0).restartView 1)).restartPrint
  { v with charge := { v.charge with orders := [] } }

/-- Each Line Channel loads its configuration and writes its Line Record (R105, R122). -/
def State.reloadLines (s : State) : State := (allLines.foldl State.loadLineConfig s).syncLines

/-- The beginning of the FRESH or KEEP work (R25, R27, R51, R71, R169). -/
def State.beginWork (s : State) : State :=
  { s with
    time := { s.time with runClock := 0 }
    store := { s.store with low := false, taking := false }
    charge := { s.charge with sequence := 0 }
    engine := { s.engine with
      sc := none, cp := Vector.replicate 2 none, rv := Vector.replicate 2 none, pr := none,
      ln := Vector.replicate 4 none } }

/-- The counts that STARTED will carry (R25). -/
def State.startCounts (s : State) (kept discarded jobs cancelled : Nat) : State :=
  { s with request := { s.request with pagesKept := kept, pagesDiscarded := discarded,
                                       jobsKept := jobs, jobsCancelled := cancelled } }

/-! ### START FRESH (R54, R155, R172, R181) -/

/-- The Free Leaf Stack built from Leaves in array order, the last on top, and the depth written
(R54, R56), as two record transfers of the Store Unit however many Leaves there are (DESIGN CHOICE,
log 84). -/
def State.buildStack (s : State) (leaves : List Nat) : State :=
  (s.record .storeUnit [(Config.freeLeafStack, leaves.flatMap (leBytes 2))]).setDepth leaves.length

/-- A page's record written FREE at a START, with count 0 (R54, R55). -/
def State.clearPage (s : State) (p : Nat) : State :=
  ({ s with store := { s.store with references := s.store.references.setIfInBounds p 0 } }).pageRecord p
    freeFields

/-- The Leaf numbers in the order they are pushed: from the highest down to 0. -/
def State.leavesDown (s : State) : List Nat := (List.range s.store.leafCount).reverse

/-- The Store Unit's work of START FRESH (R54). -/
def State.freshStore (s : State) : State :=
  let t := (List.range 128).foldl State.clearPage s
  (t.buildStack t.leavesDown).checkLow

/-- The Dispatcher's work of START FRESH (R155); the submit number field is written 0 (DESIGN CHOICE,
log 57). -/
def State.freshJobs (s : State) : State :=
  let t := (List.range 16).foldl (fun u j => u.setJob j
    { state := .empty, cancelling := false, sent := 0, failed := 0, cancelled := 0, number := 0 }) s
  { t with dispatcher := { t.dispatcher with submitList := [], submitCount := 0 } }

/-- The Charge Unit's work of START FRESH (R172). -/
def State.freshDesks (s : State) : State :=
  (List.range 32).foldl (fun t d => (t.setDesk d { capped := false, markup := 0 }).writeDesk d 0 0 0 0) s

/-- The Print Unit's work of START FRESH (R181), every field of a slot zero (DESIGN CHOICE, log 92). -/
def State.freshPrint (s : State) : State :=
  let t := (List.range 32).foldl (fun u n => u.setSlot n Slot.cleared) s
  { t with print := { t.print with entryCount := 0 } }

/-- START FRESH's work of all blocks (R25): the Store Unit, the Dispatcher, the Charge Unit and the Print Unit one
after the other (DESIGN CHOICE, log 48). -/
def State.freshWork (s : State) : State :=
  ((((s.freshStore).freshJobs).freshDesks).freshPrint).startCounts 0 0 0 0

/-! ### START KEEP: the walk of the Page Directory (R55) -/

/-- A chain followed from a Leaf: the Leaves it holds, when it passes with the Leaves found before it
(R55). The fuel is the record's Leaf count less the Leaves found. -/
def State.walkChain (s : State) (claimed : List Nat) : Nat → Nat → List Nat → Option (List Nat)
  | 0, leaf, found => if leaf = Config.endMark then some found else none
  | fuel + 1, leaf, found =>
    if s.store.leafCount ≤ leaf then none
    else if claimed.contains leaf || found.contains leaf then none
    else s.walkChain claimed fuel (s.link leaf) (found ++ [leaf])

/-- The Leaves of a SEALED record whose chain passes; none for a record to be set FREE (R55). -/
def State.keptChain (s : State) (claimed : List Nat) (p : Nat) : Option (List Nat) :=
  if s.pageState p = .sealed then s.walkChain claimed (s.leavesOf p) (s.firstLeaf p) [] else none

/-- The walk's work on one record: the state, and the Leaves claimed so far (R55). -/
def State.walkRecord (x : State × List Nat) (p : Nat) : State × List Nat :=
  if x.1.valueAt (pageOffset p) 1 = 0 then x
  else
    match x.1.keptChain x.2 p with
    | some leaves => (x.1, x.2 ++ leaves)
    | none => (x.1.clearPage p, x.2)

/-- The records that are not FREE. -/
def State.usedPages (s : State) : List Nat :=
  (List.range 128).filter (fun p => s.valueAt (pageOffset p) 1 != 0)

/-- The records that are SEALED. -/
def State.sealedPages (s : State) : List Nat :=
  (List.range 128).filter (fun p => s.pageState p == .sealed)

/-- The walk, and the stack of the Leaves that no kept record has claimed (R55, R56). -/
def State.keepStore (s : State) : State :=
  let (t, claimed) := (List.range 128).foldl State.walkRecord (s, [])
  t.buildStack (t.leavesDown.filter (fun n => !claimed.contains n))

/-! ### START KEEP: jobs, desks and print items (R156, R172, R181) -/

/-- A destination of a QUEUED job as KEEP takes it (R156). -/
def Destination.kept (x : Destination) (cancelling : Bool) : Destination :=
  match x.state with
  | .calling =>
    if cancelling then { x with state := .cancelled, line := Config.noneByte }
    else { x with state := .pending, line := Config.noneByte, nextTry := 0 }
  | .pending => { x with nextTry := 0 }
  | .sent | .failed | .barred | .invalid | .cancelled => x

/-- A part half written when it differs from what memory holds. -/
def State.rewriteDestination (s : State) (j d : Nat) (x : Destination) : State :=
  if s.bytesAt (destinationOffset j d + 0x10) 16 = x.bytes then s else s.setDestination j d x

/-- A Job Status written when it differs from what memory holds. -/
def State.rewriteJob (s : State) (j : Nat) (x : JobStatus) : State :=
  if s.valueAt (statusOffset j) 1 = x.state.code && s.job j == x then s else s.setJob j x

/-- A QUEUED job's destinations as KEEP takes them, PENDING ones cancelled where the job lists a
discarded page (R156). -/
def State.keepDestinations (s : State) (j : Nat) (lost : Bool) : State :=
  (s.destinationsOf j).foldl (fun t d =>
    let x := (t.destination j d).kept (t.job j).cancelling
    t.rewriteDestination j d
      (if lost && x.state = .pending then { x with state := .cancelled } else x)) s

/-- The job lists a discarded page. -/
def State.listsAny (s : State) (j : Nat) (discarded : List Nat) : Bool :=
  (s.jobPages j).any (fun p => discarded.contains p)

/-- One job as KEEP leaves it (R156). A destination of a job that is not QUEUED, whose state names none
of Table 9.3, is counted as CANCELLED and stays as memory holds it (DESIGN CHOICE, log 65). -/
def State.keepJob (s : State) (discarded : List Nat) (j : Nat) : State :=
  if (s.job j).state = .queued then
    let t := s.keepDestinations j (s.listsAny j discarded)
    let finished := s.listsAny j discarded || t.countIn j [.pending] == 0
    t.rewriteJob j (t.counted j { t.job j with state := if finished then .done else .queued })
  else s.rewriteJob j (s.counted j (s.job j))

/-- A job placed into a list that ascends in submit number, after those of equal number. -/
def State.insertJob (s : State) (j : Nat) : List Nat → List Nat
  | [] => [j]
  | k :: rest =>
    if (s.job j).number < (s.job k).number then j :: k :: rest else k :: s.insertJob j rest

/-- The jobs that are QUEUED, in job-number order. -/
def State.queuedJobs (s : State) : List Nat :=
  (List.range 16).filter (fun j => (s.job j).state == .queued)

/-- The submit list in ascending submit number, ties in job-number order (R156). -/
def State.rebuiltList (s : State) : List Nat :=
  s.queuedJobs.foldl (fun acc j => s.insertJob j acc) []

/-- The number after the largest of those given, saturating; 0 where there is none. -/
def nextNumber (ns : List Nat) : Nat :=
  match ns with
  | [] => 0
  | _ => min (ns.foldl max 0 + 1) Config.maxCount

/-- The Dispatcher's work of START KEEP (R156). -/
def State.keepJobs (s : State) (discarded : List Nat) : State :=
  let t := (List.range 16).foldl (fun u j => u.keepJob discarded j) s
  { t with dispatcher := { t.dispatcher with
      submitList := t.rebuiltList
      submitCount := nextNumber (t.queuedJobs.map (fun j => (t.job j).number)) } }

/-- The jobs that a discarded page makes DONE (R156). -/
def State.cancelledJobs (s : State) (discarded : List Nat) : Nat :=
  s.queuedJobs.countP (fun j => s.listsAny j discarded)

/-- One desk read from DRAM and kept, its state set afresh, written back when changed (R172). -/
def State.keepDesk (s : State) (d : Nat) : State :=
  let markup := min (s.valueAt (deskOffset d + 8) 2) 999
  let total := s.deskTotal d
  let cap := s.deskCap d
  let capped := cap != 0 && decide (cap ≤ total)
  let t := s.setDesk d { capped := capped, markup := markup }
  if s.bytesAt (deskOffset d) 11
      = bcd8 total ++ bcd8 cap ++ leBytes 2 markup ++ [BitVec.ofNat 8 (flagValue capped)] then t
  else t.writeDesk d total cap (s.deskCalls d) (s.deskPages d)

/-- The Charge Unit's work of START KEEP (R172). -/
def State.keepDesks (s : State) : State := (List.range 32).foldl State.keepDesk s

/-- A slot as KEEP takes it (R181): EMPTY for fields out of range or a page that is discarded or not
SEALED, a PRINTING item WAITING. A cancel mark is kept (DESIGN CHOICE, log 75), and the other fields of a slot
made EMPTY are zero (DESIGN CHOICE, log 92). -/
def State.keptSlot (s : State) (x : Slot) (discarded : List Nat) : Slot :=
  let good := x.page ≤ 127 && decide (1 ≤ x.copies) && decide (x.copies ≤ 99)
    && decide (x.copiesDone < x.copies) && !discarded.contains x.page && s.pageState x.page == .sealed
  match x.state with
  | some .waiting => if good then x else Slot.cleared
  | some .printing => if good then { x with state := some .waiting } else Slot.cleared
  | some .empty => x
  | none => Slot.cleared

/-- The Print Unit's work of START KEEP (R181). Its reads of the slots are no transfers (DESIGN CHOICE, log 93). -/
def State.keepPrint (s : State) (discarded : List Nat) : State :=
  let t := (List.range 32).foldl (fun u n =>
    let x := u.keptSlot (u.slot n) discarded
    if x = u.slot n then u else u.setSlot n x) s
  { t with print := { t.print with
      entryCount := nextNumber (t.waitingSlots.map (fun n => (t.slot n).entry)) } }

/-! ### START KEEP: References and the whole (R57) -/

/-- The References to a page after a rebuild: OWNED, listings of QUEUED jobs, print items (R57). -/
def State.recount (s : State) (p : Nat) : Nat :=
  flagValue (s.pageOwned p)
    + (s.queuedJobs.map (fun j => (s.jobPages j).count p)).sum
    + s.waitingSlots.countP (fun n => (s.slot n).page == p)

/-- The References of the kept records set and written, and those with count 0 freed (R57): a count
above 255 held in full and written by its low 8 bits (DESIGN CHOICE, log 60), and the freeings after
all the counts, in ascending record number (DESIGN CHOICE, log 61). -/
def State.recountAll (s : State) : State :=
  let t := s.sealedPages.foldl (fun u p => u.setReferences p (s.recount p) (u.pageFlags p)) s
  s.sealedPages.foldl State.freeIfDone t

/-- START KEEP's work of all blocks (R25, R55 to R57, R156, R172, R181): the store, the jobs, the print items, the
desks and the References one after the other (DESIGN CHOICE, log 48). -/
def State.keepWork (s : State) : State :=
  let began := s.usedPages
  let t := s.keepStore
  let discarded := began.filter (fun p => t.valueAt (pageOffset p) 1 == 0)
  let u := ((t.keepJobs discarded).keepPrint discarded).keepDesks
  let v := u.recountAll.checkLow
  v.startCounts v.sealedPages.length
    ((began.filter (fun p => v.valueAt (pageOffset p) 1 == 0)).length)
    u.queuedJobs.length (t.cancelledJobs discarded)

/-- A START taken: its actions, the restart effects of a RUNNING part, and the FRESH or KEEP work
(R24, R25). A look that is pending stays pending (DESIGN CHOICE, log 86). -/
def State.takeStart (s : State) (keep : Bool) : State :=
  let t := s.startActions
  let u := if s.isRunning then t.restartEffects else t
  let v := u.reloadLines.beginWork
  if keep then v.keepWork else v.freshWork

/-- The START word acted on (R23): zero not acted on; a START taken, or refused with START FAULT. -/
def State.actOnStart (s : State) : State :=
  let v := s.valueAt Config.startWord 4
  if v = 0 then s
  else if s.startTaken v then s.takeStart (v == 2)
  else s.setFlag .startFault

/-! ### STARTED (R25) -/

/-- STARTED is raised, the part becomes RUNNING, and the Print Unit reads PAPER (R25, R181). -/
def State.startDone (s : State) : State :=
  if s.path.state = .starting then
    let r := s.request
    let t := s.raise
      { kind := .started, subject := noSubject,
        value1 := some (r.pagesKept + 65536 * r.pagesDiscarded),
        value2 := some (r.jobsKept + 65536 * r.jobsCancelled) }
    let u := t.enterPath .running 2
    ({ u with store := { u.store with taking := true } }).readPaper
  else s

/-! ### Pin reset and the tick (R1, R27) -/

/-- The numbers that pin reset leaves undefined: free values of their widths (log 8). -/
def undefinedBelow (n bound : Nat) : Nat := Config.undefinedNat n % bound

/-- How many free values a pin reset uses. -/
def resetFreeValues : Nat := 256

/-- DRAM as it stands: without what a LOCKED sequence still holds back (R12). -/
def State.dram (s : State) : Memory :=
  if s.path.hold then s.arbiter.hidden.foldl (fun m c => m.write c.1 [c.2]) s.memory else s.memory

/-- Pin reset (R1): every unit at its reset state, memory and the PAPER level as they were, and the
values that pin reset leaves undefined free (R36, R38, R53, R171, R181; log 8). -/
def State.pinReset (s : State) (size : DramSize) : State :=
  { State.reset with
    memory := s.dram
    path := PathUnit.reset size
    store := { State.reset.store with
      depth := undefinedBelow s.free 8192
      leafBase := undefinedBelow (s.free + 1) 4294967296
      leafCount := undefinedBelow (s.free + 2) 8192
      references := Vector.ofFn (fun p => undefinedBelow (s.free + 8 + p.val) 256) }
    dispatcher := { State.reset.dispatcher with submitCount := undefinedBelow (s.free + 3) 4294967296 }
    charge := { State.reset.charge with
      desks := Vector.ofFn (fun d =>
        { capped := undefinedBelow (s.free + 136 + d.val) 2 == 1
          markup := undefinedBelow (s.free + 168 + d.val) 65536 }) }
    print := { State.reset.print with
      entryCount := undefinedBelow (s.free + 4) 4294967296
      paper := s.print.paper }
    free := s.free + resetFreeValues
    pending := s.pending }

/-- The Time of Day a tenth later (R27). -/
def TimeBase.ticked (t : TimeBase) : TimeBase :=
  let next := t.tenths + 1
  { runClock := t.runClock + 1
    weekday := if next < 864000 then t.weekday else if t.weekday < 6 then t.weekday + 1 else 0
    tenths := if next < 864000 then next else 0 }

/-- One tenth passes; every second of the Run Clock brings a look while RUNNING (R27, R147). -/
def State.tick (s : State) : State :=
  let t := { s with time := s.time.ticked }
  if t.isRunning && t.time.runClock.toNat % 10 == 0 then
    { t with dispatcher := { t.dispatcher with lookPending := true } }
  else t

end Sys2Proof.Machine
end

