-- ==== Sys2Proof/Machine/Steps.lean ====
section
/-! DEFINITION. The part's own steps: what each command that is not a host cycle or an event of the
memory path does to the state. A step whose occasion is absent changes nothing (log 3). -/

namespace Sys2Proof.Machine

/-- The part's own step for a command. Host cycles and the events of the memory path are not steps of
this kind and change nothing here. -/
def State.act (s : State) : Instr → State
  -- Start and time
  | .started => s.startDone
  | .tenthTick => s.tick
  -- Requests
  | .scanDocument sheet => s.onRequest .scanDocument (fun t => t.reqScan sheet)
  | .stopScan => s.onRequest .stopScan State.reqStopScan
  | .openCompose => s.onRequest .openCompose State.reqOpenCompose
  | .pushCompose => s.onRequest .pushCompose State.reqPush
  | .pushComposeResume => s.pushResume
  | .sealCompose => s.onRequest .sealCompose State.reqSeal
  | .sealComposeResume => s.sealResume
  | .bindRaster => s.onRequest .bindRaster State.reqBind
  | .unbind => s.onRequest .unbind State.reqUnbind
  | .releasePage => s.onRequest .releasePage State.reqRelease
  | .submitSend => s.onRequest .submitSend State.reqSubmit
  | .cancelSend => s.onRequest .cancelSend State.reqCancel
  | .printPage => s.onRequest .printPage State.reqPrint
  | .cancelPrint => s.onRequest .cancelPrint State.reqCancelPrint
  | .settleDesk => s.onRequest .settleDesk State.reqSettle
  | .abortLine => s.onRequest .abortLine State.reqAbort
  | .unknownRequest => s.reqUnknown
  -- Grants of the Coding Engine
  | .scGrant sheet => s.grantSc sheet
  | .cpGrant => s.grantCp
  | .rvGrant => s.grantRv
  | .prGrant => s.grantPr
  | .lnSendGrant => s.grantSend
  | .lnReceiveGrant => s.grantReceive
  -- Scanner
  | .feedStep edge => s.feedStep edge
  | .feedCountExpiry => s.feedExpired
  | .scanLineStep edge sheet even odd => s.scanLineStep edge sheet even odd
  | .storeWaitExpiry => s.storeWaitExpired
  -- Dispatcher and lines
  | .look => s.look
  | .dialTone l => (s.dialTone l).finishLines
  | .dialToneTimeout l => (s.timeoutEnds l .dialTone .noTone).finishLines
  | .blindWaitExpiry l => (if s.timerIs l .blindWait then s.beginDialling l else s).finishLines
  | .digitSent l => (if s.timerIs l .digitSent then s.nibbleDone l else s).finishLines
  | .digitSentTimeout l => (s.timeoutEnds l .digitSent .timeout).finishLines
  | .pauseExpiry l => (if s.timerIs l .pause then s.nibbleDone l else s).finishLines
  | .pulseBreakExpiry l => (s.breakDone l).finishLines
  | .pulseMakeExpiry l current => (s.makeDone l current).finishLines
  | .interdigitExpiry l => (if s.timerIs l .interdigit then s.nibbleDone l else s).finishLines
  | .busyTone l => (s.busyTone l).finishLines
  | .answerTone l => (s.answerTone l).finishLines
  | .answerTimeout l => (s.timeoutEnds l .answer .noAnswer).finishLines
  | .reversal l => (s.reversal l).finishLines
  | .meter l => (s.meterPulse l).finishLines
  | .ringStart l => (s.ringStart l).finishLines
  | .ringEnd l => (s.ringEnd l).finishLines
  | .ringGapExpiry l => (s.ringGap l).finishLines
  | .loopSettleExpiry l current => (s.settled l current).finishLines
  | .loopLost l => (s.loopLoss l).finishLines
  | .farewellTimeout l => (if s.timerIs l .farewell then s.hookOn l else s).finishLines
  | .restExpiry l => (s.restDone l).finishLines
  -- Link protocol
  | .frameSent l => (s.frameSent l).finishLines
  | .checkSent l => (s.checkSent l).finishLines
  | .checkGood l => (s.checkGood l).finishLines
  | .checkBad l => (s.checkBad l).finishLines
  | .tonePlayed l => (s.tonePlayed l).finishLines
  | .tonePlayedTimeout l => (s.timeoutEnds l .tonePlayed .timeout).finishLines
  | .parcelTaken l => (s.parcelTaken l).finishLines
  | .parcelIn l bytes => (s.parcelIn l bytes).finishLines
  | .carrierLost l => (s.carrierLost l).finishLines
  | .offer l body => (s.frameIn l (parseOffer body)).finishLines
  | .choice l body => (s.frameIn l (parseChoice body)).finishLines
  | .ready l body => (s.frameIn l (parseBare .ready body)).finishLines
  | .rateDown l body => (s.frameIn l (parseBare .rateDown body)).finishLines
  | .pageEnd l body => (s.frameIn l (parsePageEnd body)).finishLines
  | .verdict l body => (s.frameIn l (parseVerdict body)).finishLines
  | .farewell l body => (s.frameIn l (parseBare .farewell body)).finishLines
  | .frameWaitExpiry l => (s.frameWaitExpired l).finishLines
  | .pageGapExpiry l => (s.gapExpired l).finishLines
  | .verdictDecide l => (s.decideVerdict l).finishLines
  -- Charging and printing
  | .unitExpiry l => (s.expireUnit l).finishLines
  | .printLineDone => s.lineDone
  | .cutDone => s.cutComplete
  | .cutTimeout => s.cutComplete
  | .paperLoss => s.losePaper
  | .paperReturn => s.returnPaper
  -- Host cycles and events of the memory path
  | .instructionFetch _ _ _ | .plainWrite _ _ _ _ _ | .postedSlotTaken | .plainRead _ _ _
  | .postedWriteDrain | .cycleGranted | .holdLimitExpiry | .lockedSequenceEnd | .regionRead _ _ _
  | .regionWrite _ _ _ _ _ | .startFresh _ _ | .startKeep _ _ | .statusFlagsWrite _ _ _ _
  | .interruptEnableWrite _ _ _ _ | .postIndexWrite _ _ _ _ | .noticeConsumeIndexWrite _ _ _ _
  | .clockSetTenthsWrite _ _ _ _ | .holdLimitWrite _ _ _ _ | .poorThresholdWrite _ _ _ _
  | .receiveReserveWrite _ _ _ _ | .autoPrintWrite _ _ _ _ | .incomingReserveWrite _ _ _ _ | .pathFaultCauseWrite _ _ _ _
  | .apertureEntryWrite _ _ _ _ _ _ | .lineConfigWrite _ _ _ _ _ _ | .composeWrite _ _ _ _ _
  | .composeWriteResume | .composeRead _ _ _ | .rasterRead _ _ _ | .rasterReadComplete
  | .rasterWrite _ _ _ _ _ | .digitsWrite _ _ _ _ _ | .digitsRead _ _ _ | .pinReset _ => s

end Sys2Proof.Machine
end

