-- ==== Sys2Proof/Machine/Path.lean ====
section
/-! DEFINITION. The memory path (Chapter 1, Sections 2.2 and 2.3): presenting a host cycle, its
checks, the Posted Write Queue, LOCKED sequences, observed words, DIGITS Apertures and waits. -/

namespace Sys2Proof.Machine

/-! ### Classifying a cycle (R2, R3) -/

/-- An address lies in the Controller Region (R1). -/
def State.inRegion (s : State) (addr : Nat) : Bool :=
  decide (s.regionBase ≤ addr) && decide (addr < s.installed)

/-- A valid entry of the copy covers an address (R5). -/
def Aperture.covers (x : Aperture) (addr : Nat) : Bool :=
  x.valid && decide (x.base ≤ addr) && decide (addr < x.base + x.length)

/-- The lowest-numbered valid entry that covers an address (R2). -/
def State.governing (s : State) (addr : Nat) : Option (Fin 8) :=
  ([0, 1, 2, 3, 4, 5, 6, 7] : List (Fin 8)).find? (fun e => (s.aperture e).covers addr)

/-- The class of a cycle (R2). -/
def State.classify (s : State) (c : Cycle) : CycleClass :=
  if c.program && !c.write then .fetch
  else if s.inRegion c.addr then .region
  else
    match s.governing c.addr with
    | some e => .aperture e
    | none => if c.addr < s.installed then .plain else .noMemory

/-- The cycle is a write to the START word (R1). -/
def State.isStartWrite (s : State) (c : Cycle) : Bool :=
  c.write && c.addr == s.regionBase + Config.startWord

/-! ### Protection (R18 to R20) -/

/-- The Config Block words that a SUPERVISOR write may not change (R19). -/
def protectedConfig : List Nat :=
  [Config.stateWord, Config.takeIndex, Config.produceIndex, Config.stackTop, Config.faultAddress,
   Config.faultAttribute, Config.faultTime]

/-- An offset lies in an area that the part alone writes (R18, Table 2.1), the part halves of the
Destination entries among them. -/
def partWritten (off : Nat) : Bool :=
  (decide (Config.noticeRing ≤ off) && decide (off < Config.flashList))
    || (decide (Config.lineRecords ≤ off) && decide (off < Config.tariffTable))
    || (decide (Config.pageDirectory ≤ off) && decide (off < Config.sendJobs))
    || (decide (Config.jobStatuses ≤ off) && decide (off < Config.jobStatuses + 512))
    || (decide (Config.destinations ≤ off) && decide (off < Config.callLog) && decide (16 ≤ off % 32))
    || (decide (Config.callLog ≤ off) && decide (off < Config.callLogEnd))

/-- An offset lies in the host-written entry, or the host half of a destination, of a job that is
QUEUED (R20), as the part itself holds the job's state in a LOCKED sequence (DESIGN CHOICE, log 59). -/
def State.jobProtected (s : State) (off : Nat) : Bool :=
  if Config.sendJobs ≤ off ∧ off < Config.jobStatuses then
    (s.job ((off - Config.sendJobs) / 32)).state == .queued
  else if Config.destinations ≤ off ∧ off < Config.callLog then
    (s.job ((off - Config.destinations) / 1536)).state == .queued
  else false

/-- An offset lies in the Aperture Table entry of an entry that is bound (R20). -/
def State.entryProtected (s : State) (off : Nat) : Bool :=
  if Config.apertureTable ≤ off ∧ off < Config.lineConfigs then
    (s.aperture (Fin.ofNat 8 ((off - Config.apertureTable) / 32))).binding.isSome
  else false

/-- A region write is refused by the protection (R18 to R20). -/
def State.protectedWrite (s : State) (c : Cycle) : Bool :=
  let off := c.addr - s.regionBase
  c.user || protectedConfig.contains off || partWritten off || s.jobProtected off
    || s.entryProtected off

/-- The bus error that the checks of a cycle's class give, if any (R2, R3, R6, R18). In PASS the
region is plain memory (R4). -/
def State.checks (s : State) (c : Cycle) (cls : CycleClass) : Option BusError :=
  match cls with
  | .fetch => if c.addr < s.installed then none else some .noMemory
  | .region =>
    if s.path.state != .pass && c.write && s.protectedWrite c then some .protection else none
  | .aperture e =>
    let x := s.aperture e
    if c.locked then some .protection
    else if c.user && !x.userAllowed then some .protection
    else if x.kind != .digits && x.binding.isNone then some .unbound
    else none
  | .plain => none
  | .noMemory => some .noMemory

/-! ### The Posted Write Queue (R8 to R10) -/

/-- The oldest entry of the queue drained into DRAM (R8). -/
def State.drainOne (s : State) : State :=
  match s.path.queue with
  | [] => s
  | w :: rest =>
    { s with memory := s.memory.writeWord w.addr w.data w.be, path := { s.path with queue := rest } }

/-- The first n entries of the queue drained, oldest first. -/
def State.drainN : Nat → State → State
  | 0, s => s
  | n + 1, s => State.drainN n s.drainOne

/-- The whole queue drained (R10). -/
def State.drainAll (s : State) : State := State.drainN s.path.queue.length s

/-- How many entries must drain before a read of a word: up to its youngest match (R9). -/
def drainsFor (queue : List Posted) (addr : Nat) : Nat :=
  queue.length - (queue.reverse.takeWhile (fun w => w.addr != addr)).length

/-- A plain write posted, and its cycle ended (R8). -/
def State.post (s : State) (c : Cycle) : State :=
  let w : Posted := { addr := c.addr, data := c.data, be := c.be }
  ({ s with path := { s.path with queue := s.path.queue ++ [w] } }).endCycle none

/-! ### Waits (R15) -/

/-- A cycle is stretched. -/
def State.wait (s : State) (c : Cycle) (why : WaitFor) : State :=
  { s with path := { s.path with waiting := some { cycle := c, why := why }, ending := none } }

/-- The word a read returns: zero with no byte enable set (R2, R4). -/
def State.readData (s : State) (c : Cycle) : Word := if c.be = 0 then 0 else s.hostWord c.addr

/-! ### LOCKED sequences (R12) -/

/-- The units of the third class in turn order from a unit on (R13). -/
def turnsFrom (t : UnitTurn) : List UnitTurn :=
  let all : List UnitTurn :=
    [.requestUnit, .storeUnit, .chargeUnit, .lineChannels, .dispatcher, .printUnit]
  all.dropWhile (fun u => u != t) ++ all.takeWhile (fun u => u != t)

/-- The unit of the third class that a requester belongs to. -/
def Requester.turn : Requester → UnitTurn
  | .requestUnit => .requestUnit
  | .storeUnit => .storeUnit
  | .chargeUnit => .chargeUnit
  | .lineChannel _ => .lineChannels
  | .dispatcher => .dispatcher
  | .printUnit => .printUnit

/-- The requester of a held-back transfer. -/
def HeldTransfer.unit : HeldTransfer → Requester
  | .record u => u
  | .notice _ | .produce | .flags _ => .requestUnit

/-- The Line Channels in turn order from one on (R13). -/
def linesFrom (l : LineNo) : List LineNo := [l, l + 1, l + 2, l + 3]

/-- The requesters of a unit, the Line Channels in their own turn order (R13). -/
def Arbiter.requesters (a : Arbiter) : UnitTurn → List Requester
  | .requestUnit => [.requestUnit]
  | .storeUnit => [.storeUnit]
  | .chargeUnit => [.chargeUnit]
  | .lineChannels => (linesFrom a.lineTurn).map .lineChannel
  | .dispatcher => [.dispatcher]
  | .printUnit => [.printUnit]

/-- The held-back transfer that is granted next: the oldest of the first requester in turn that has
one (R13). -/
def Arbiter.nextHeld (a : Arbiter) : Option HeldTransfer :=
  ((turnsFrom a.unitTurn).flatMap a.requesters).findSome? (fun u =>
    a.held.find? (fun x => x.unit == u))

/-- A transfer taken out of those held back. -/
def State.unheld (s : State) (x : HeldTransfer) : State :=
  { s with arbiter := { s.arbiter with held := s.arbiter.held.erase x } }

/-- A transfer put in front of those held back: the next one of its unit. -/
def State.holdFirst (s : State) (x : HeldTransfer) : State :=
  { s with arbiter := { s.arbiter with held := x :: s.arbiter.held } }

/-- A held-back transfer granted, after the sequence has ended (R12): a record's bytes are in place
already; a notice is taken now, its produce index word following; flags are set now (R26, R32, R33). -/
def State.grantHeld (s : State) : HeldTransfer → State
  | .record u => { s with arbiter := s.arbiter.granted u }
  | .notice bytes =>
    if s.request.unread < 128 then (s.noticeEntry bytes).holdFirst .produce
    else s.setFlag .noticeLost
  | .produce => s.advanceProduce
  | .flags f => s.writeFlags f

/-- The held-back transfers granted in the arbiter's order (R12, R13). -/
def State.flushHeld : Nat → State → State
  | 0, s => s
  | fuel + 1, s =>
    match s.arbiter.nextHeld with
    | none => s
    | some x => State.flushHeld fuel ((s.unheld x).grantHeld x)

/-- A LOCKED sequence ends (R12). What it held back waits on in the third class until `State.endHold`. -/
def State.endSequence (s : State) : State := { s with path := { s.path with sequence := false } }

/-- A stretched host cycle waits for its access (R15). -/
def PathUnit.accessWaits (p : PathUnit) : Bool :=
  match p.waiting with
  | some { why := .access _, .. } => true
  | _ => false

/-- An access of the first class waits: that of a stretched host cycle, or the drain of a full Posted Write
Queue (R13). -/
def PathUnit.firstClassWaits (p : PathUnit) : Bool :=
  decide (Config.queueSlots ≤ p.queue.length) || p.accessWaits

/-- The hold is released: the bytes held back stand in DRAM, and the transfers are granted (R12). The fuel
is two grants for each transfer: a notice takes two. -/
def State.releaseHold (s : State) : State :=
  State.flushHeld (2 * s.arbiter.held.length)
    { s with path := { s.path with hold := false }, arbiter := { s.arbiter with hidden := [] } }

/-- Once a LOCKED sequence has ended and no access of the first class waits, the third class is granted:
what the sequence held back is performed (R12, R13). The cycle that ends a sequence is granted first. -/
def State.endHold (s : State) : State :=
  if s.path.hold && !s.path.sequence && !s.path.firstClassWaits then s.releaseHold else s

/-- A LOCKED cycle opens or continues the sequence; one that falls in the Controller Region in STARTING or
RUNNING, be it an instruction fetch, makes the arbiter hold the part's record writes back (R12). -/
def State.lockSequence (s : State) (addr : Nat) : State :=
  { s with path := { s.path with
      sequence := true
      hold := s.path.hold || (s.inRegion addr && s.path.state != .pass) } }

/-! ### Observed words (R21) -/

/-- The word at an offset of the Config Block as it stands in DRAM (R21). -/
def State.config (s : State) (off : Nat) : Word := s.hostWord (s.regionBase + off)

/-- The status flags word acted on: flags that read zero cleared, the flags written back (R26). -/
def State.actOnFlags (s : State) : State :=
  let v := s.config Config.statusFlags
  let r := s.request
  let t := { s with request := { r with
    startFault := r.startFault && v.getLsbD 0
    requestOverrun := r.requestOverrun && v.getLsbD 1
    noticeLost := r.noticeLost && v.getLsbD 2 } }
  t.writeFlags none

/-- The interrupt enable word acted on and written back as a flag word (R35). -/
def State.actOnEnable (s : State) : State :=
  let on := s.config Config.interruptEnable != 0
  ({ s with request := { s.request with interruptEnable := on } }).configRecord .requestUnit
    Config.interruptEnable (flagValue on)

/-- The post index word acted on: at most 64 pending, clamped with REQUEST OVERRUN otherwise (R29). A word
equal to the take index is taken as it stands also while a compose request waits in execution; the answer
then advances the take index past it (DESIGN CHOICE, log 83). -/
def State.actOnPost (s : State) : State :=
  let v : Index := (s.config Config.postIndex).setWidth 16
  if (v - s.request.take).toNat ≤ 64 then { s with request := { s.request with post := v } }
  else
    let clamped := s.request.take + 64
    (({ s with request := { s.request with post := clamped } }).setFlag .requestOverrun).configRecord
      .requestUnit Config.postIndex clamped.toNat

/-- The consume index word acted on: clamped to the produce index where it lies beyond it (R34). -/
def State.actOnConsume (s : State) : State :=
  let v : Index := (s.config Config.consumeIndex).setWidth 16
  let r := s.request
  if (v - r.consume).toNat ≤ (r.produce - r.consume).toNat then
    { s with request := { r with consume := v } }
  else
    ({ s with request := { r with consume := r.produce } }).configRecord .requestUnit
      Config.consumeIndex r.produce.toNat

/-- The clock-set pair acted on: the Time of Day set, clamped and written back (R28), as two record
transfers that take the Request Unit's turn (DESIGN CHOICE, log 49). -/
def State.actOnClock (s : State) : State :=
  let weekday := min (s.config Config.clockWeekday).toNat 6
  let tenths := min (s.config Config.clockTenths).toNat 863999
  (({ s with time := { s.time with weekday := weekday, tenths := tenths } }).configRecord .requestUnit
    Config.clockWeekday weekday).configRecord .requestUnit Config.clockTenths tenths

/-- The Hold Limit word acted on: clamped to 1 to 255 and written back (R15), as an access of the Path
Unit that no LOCKED sequence holds back (DESIGN CHOICE, log 58). -/
def State.actOnHoldLimit (s : State) : State :=
  let v := max 1 (min (s.config Config.holdLimit).toNat 255)
  ({ s with path := { s.path with holdLimit := v } }).poke Config.holdLimit (leBytes 4 v)

/-- The Receive Reserve word acted on: clamped and written back, and the low condition evaluated
(R22, R51). -/
def State.actOnReserve (s : State) : State :=
  let v := min (s.config Config.receiveReserve).toNat 255
  (({ s with store := { s.store with receiveReserve := v } }).configRecord .storeUnit
    Config.receiveReserve v).checkLow

/-- The Poor Threshold word acted on: clamped and written back (R22), in the turn of LC0 (DESIGN CHOICE,
log 50). -/
def State.actOnPoor (s : State) : State :=
  let v := min (s.config Config.poorThreshold).toNat 255
  ({ s with poorThreshold := v }).configRecord (.lineChannel 0) Config.poorThreshold v

/-- The Auto Print word acted on and written back as a flag word (R22). -/
def State.actOnAutoPrint (s : State) : State :=
  let on := s.config Config.autoPrint != 0
  ({ s with print := { s.print with autoPrint := on } }).configRecord .printUnit Config.autoPrint
    (flagValue on)

/-- The Incoming Reserve word acted on: clamped and written back (R22). -/
def State.actOnIncoming (s : State) : State :=
  let v := min (s.config Config.incomingReserve).toNat 3
  ({ s with dispatcher := { s.dispatcher with incomingReserve := v } }).configRecord .dispatcher
    Config.incomingReserve v

/-- The Path Fault cause word acted on: zero empties the record and the field; any other value is
written over with the cause held (R17). -/
def State.actOnCause (s : State) : State :=
  if s.config Config.faultCause = 0 then
    ({ s with path := { s.path with fault := none } }).poke Config.faultCause (faultBytes none)
  else s.poke Config.faultCause ((faultBytes s.path.fault).take 4)

/-- The written word of the region acted on by its owner, when it is observed (R21, Table 2.3). -/
def State.observed (s : State) (off : Nat) : State :=
  if off = Config.startWord then s.actOnStart
  else if off = Config.statusFlags then s.actOnFlags
  else if off = Config.interruptEnable then s.actOnEnable
  else if off = Config.postIndex then s.actOnPost
  else if off = Config.consumeIndex then s.actOnConsume
  else if off = Config.holdLimit then s.actOnHoldLimit
  else if off = Config.receiveReserve then s.actOnReserve
  else if off = Config.poorThreshold then s.actOnPoor
  else if off = Config.autoPrint then s.actOnAutoPrint
  else if off = Config.incomingReserve then s.actOnIncoming
  else if off = Config.clockTenths then s.actOnClock
  else if off = Config.faultCause then s.actOnCause
  else if Config.apertureTable ≤ off ∧ off < Config.lineConfigs then
    s.loadAperture (Fin.ofNat 8 ((off - Config.apertureTable) / 32))
  else if Config.lineConfigs ≤ off ∧ off < Config.lineConfigs + 256 then
    s.loadLineConfig (Fin.ofNat 4 ((off - Config.lineConfigs) / 64))
  else s

/-! ### DIGITS Apertures (R107 to R109) -/

/-- The nibble that a character is written as (Table 7.2). -/
def nibbleOf (b : Byte) : Nibble :=
  let n := b.toNat
  if 48 ≤ n ∧ n ≤ 57 then BitVec.ofNat 4 (n - 48)
  else if n = 42 then 10
  else if n = 35 then 11
  else if n = 44 ∨ n = 80 then 12
  else if n = 87 then 13
  else 15

/-- The character that a nibble reads as (Table 7.2). -/
def characterOf (x : Nibble) : Byte :=
  let n := x.toNat
  if n ≤ 9 then BitVec.ofNat 8 (48 + n)
  else if n = 10 then 42
  else if n = 11 then 35
  else if n = 12 then 44
  else if n = 13 then 87
  else if n = 14 then 63
  else 32

/-- Nibble o of the packed area at a target address (R108). -/
def Memory.nibbleAt (m : Memory) (target o : Nat) : Nibble :=
  let b := m.read (target + o / 2)
  if o % 2 = 0 then highNibble b else lowNibble b

/-- Nibble o of the packed area written (R108). -/
def Memory.writeNibble (m : Memory) (target o : Nat) (x : Nibble) : Memory :=
  let b := m.read (target + o / 2)
  m.write (target + o / 2) [if o % 2 = 0 then byteOf x (lowNibble b) else byteOf (highNibble b) x]

/-- The nibbles that a word write selects, written (R108). -/
def Memory.writeDigits (m : Memory) (target o : Nat) (data : Word) (be : Enables) : Memory :=
  (List.range 4).foldl (fun m' i =>
    if be.getLsbD i then m'.writeNibble target (o + i) (nibbleOf (Word.byte data i)) else m') m

/-- The characters that a word read returns (R109). -/
def Memory.readDigits (m : Memory) (target o : Nat) (be : Enables) : Word :=
  BitVec.ofNat 32 (leValue ((List.range 4).map (fun i =>
    if be.getLsbD i then characterOf (m.nibbleAt target (o + i)) else 0)))

/-! ### Granted accesses -/

/-- A read of DRAM granted: the queue drained through its youngest match, or wholly for a LOCKED
cycle, and the word returned (R9, R12). -/
def State.grantRead (s : State) (c : Cycle) : State :=
  let n := if c.locked then s.path.queue.length else drainsFor s.path.queue c.addr
  let t := State.drainN n s
  t.endCycle (some (t.readData c))

/-- A LOCKED plain write granted: performed before its cycle ends (R12). -/
def State.grantLockedWrite (s : State) (c : Cycle) : State :=
  let t := s.drainAll
  ({ t with memory := t.memory.writeWord c.addr c.data c.be }).endCycle none

/-- A word of the region written by the host. A byte that a held-back record transfer is to change is
changed in DRAM now, and that transfer's byte lands after it (R12, R19). -/
def State.hostWrite (s : State) (c : Cycle) : State :=
  if s.path.hold then
    let hit := fun (i : Nat) => c.be.getLsbD i && (s.arbiter.hiddenByte (c.addr + i)).isNone
    { s with
      memory := (List.range 4).foldl (fun m i =>
        if hit i then m.write (c.addr + i) [Word.byte c.data i] else m) s.memory
      arbiter := { s.arbiter with hidden := s.arbiter.hidden.map (fun x =>
        if decide (c.addr ≤ x.1) && decide (x.1 < c.addr + 4) && c.be.getLsbD (x.1 - c.addr) then
          (x.1, Word.byte c.data (x.1 - c.addr))
        else x) } }
  else { s with memory := s.memory.writeWord c.addr c.data c.be }

/-- A Controller Region access granted: the queue drained, the access performed, an observed word
acted on (R11). A write with no byte enable has no effect (R2). -/
def State.grantRegion (s : State) (c : Cycle) : State :=
  let t := s.drainAll
  if c.write then
    if c.be = 0 then t.endCycle none
    else
      ((t.hostWrite c).observed (c.addr - s.regionBase)).endCycle none
  else t.endCycle (some (t.readData c))

/-- A DIGITS access granted: the queue drained, and the nibbles written or read (R108, R109). -/
def State.grantDigits (s : State) (c : Cycle) (x : Aperture) : State :=
  let t := s.drainAll
  if c.write then
    ({ t with memory := t.memory.writeDigits x.target (c.addr - x.base) c.data c.be }).endCycle none
  else t.endCycle (some (t.memory.readDigits x.target (c.addr - x.base) c.be))

/-- A region cycle is a plain access: in PASS, but for a write to the START word (R4). -/
def State.plainRegion (s : State) (c : Cycle) : Bool := s.path.state == .pass && !s.isStartWrite c

/-- The access of a cycle of a class granted. -/
def State.access (s : State) (c : Cycle) (cls : CycleClass) : State :=
  match cls with
  | .fetch => s.grantRead c
  | .plain | .noMemory => if c.write then s.grantLockedWrite c else s.grantRead c
  | .region =>
    if s.plainRegion c then (if c.write then s.grantLockedWrite c else s.grantRead c)
    else s.grantRegion c
  | .aperture e => s.grantDigits c (s.aperture e)

/-- An access granted within the step, or waited for by a stretched cycle (R15, log 4). -/
def State.accessOr (s : State) (c : Cycle) (cls : CycleClass) (stretched : Bool) : State :=
  if stretched then s.wait c (.access cls) else s.access c cls

/-! ### Carrying a cycle out -/

/-- A plain access (R4, R8, R9, R12). -/
def State.plainCycle (s : State) (c : Cycle) (cls : CycleClass) (stretched : Bool) : State :=
  if c.write && !c.locked then
    if c.be = 0 then s.endCycle none
    else if s.path.queue.length < Config.queueSlots then s.post c
    else s.wait c .slot
  else s.accessOr c cls stretched

/-- A cycle of a COMPOSE entry handed to its transform (R88). -/
def State.composeCycle (s : State) (c : Cycle) (e : Fin 8) : State :=
  if !c.write then s.endCycle (some 0)
  else
    match s.composeOf e with
    | none => s.endError c .unbound
    | some (i, x) =>
      match x.write ((s.aperture e).lineOf c.addr) ((s.aperture e).byteOf c.addr) c.data c.be with
      | some y => (s.setCp i (some y)).endCycle none
      | none => s.wait c (.composeSlot e)

/-- A cycle of a RASTER entry handed to its transform (R96, R100). -/
def State.rasterCycle (s : State) (c : Cycle) (e : Fin 8) : State :=
  if c.write then s.endCycle none
  else
    match s.viewOf e with
    | none => s.endError c .unbound
    | some (i, v) => s.viewRead c e i v

/-- A cycle that has passed the checks of its class carried out. -/
def State.carryOut (s : State) (c : Cycle) (cls : CycleClass) (stretched : Bool) : State :=
  match cls with
  | .fetch => s.accessOr c cls stretched
  | .plain => s.plainCycle c cls stretched
  | .region => if s.plainRegion c then s.plainCycle c cls stretched else s.accessOr c cls stretched
  | .aperture e =>
    match (s.aperture e).kind with
    | .compose => s.composeCycle c e
    | .raster => s.rasterCycle c e
    | .digits => s.accessOr c cls stretched
  | .noMemory => s.endError c .noMemory

/-- A refused cycle drains the whole queue first where its class does: a LOCKED cycle and a region
write (R10, R11). -/
def State.drainRefused (s : State) (c : Cycle) (cls : CycleClass) : State :=
  if c.locked || cls == .region then s.drainAll else s

/-- A host cycle is presented: a LOCKED sequence ended or continued, the cycle classified and checked,
and carried out, ahead of what an ended sequence held back (R2, R6, R11 to R13). While another cycle waits,
none can be presented (log 5). -/
def State.present (s : State) (c : Cycle) (stretched : Bool) : State :=
  if s.path.waiting.isSome then s
  else
    let t := if c.locked then s.lockSequence c.addr else s.endSequence
    let cls := t.classify c
    (match t.checks c cls with
    | some cause => (t.drainRefused c cls).endError c cause
    | none => t.carryOut c cls stretched).endHold

/-! ### Events of the memory path -/

/-- The entries of the queue that must drain before a waiting cycle's access (R9, R10). -/
def State.drainsNeeded (s : State) (c : Cycle) (cls : CycleClass) : Nat :=
  let reads := !c.write && !c.locked && (match cls with
    | .fetch | .plain | .noMemory => true
    | .region => s.plainRegion c
    | .aperture _ => false)
  if reads then drainsFor s.path.queue c.addr else s.path.queue.length

/-- A path access stands ahead of the posted-write drain: a waiting read that needs no entry drained,
while the queue is not full (Table 1.3, R13). -/
def State.drainWaits (s : State) : Bool :=
  match s.path.waiting with
  | some { cycle := c, why := .access cls } =>
    decide (s.path.queue.length < Config.queueSlots) && s.drainsNeeded c cls == 0
  | _ => false

/-- The arbiter grants the posted-write drain; a full queue drains before the third class (R13). -/
def State.drainGrant (s : State) : State := if s.drainWaits then s else s.drainOne.endHold

/-- A write that waits for a slot takes one that has freed (R8). -/
def State.slotTaken (s : State) : State :=
  match s.path.waiting with
  | some { cycle := c, why := .slot } =>
    if s.path.queue.length < Config.queueSlots then s.post c else s
  | _ => s

/-- A stretched cycle is granted its access, ahead of what an ended LOCKED sequence held back (R13, R15). -/
def State.cycleGranted (s : State) : State :=
  match s.path.waiting with
  | some { cycle := c, why := .access cls } => (s.access c cls).endHold
  | _ => s

/-- The stretch of the waiting cycle reaches the Hold Limit: NOT READY (R15, R16, R102). -/
def State.holdExpired (s : State) : State :=
  match s.path.waiting with
  | some w => ((s.viewReadExpired).endError w.cycle .notReady).endHold
  | none => s

/-- The P-port goes idle with the LOCKED marker released (R12). -/
def State.portIdle (s : State) : State := if s.path.waiting.isSome then s else s.endSequence.endHold

/-- A waiting compose write takes a slot of its queue (R89). It is judged again by R88 as it goes on: where a
PUSH COMPOSE has closed its current line meanwhile, it is taken under case 5 and needs no slot (DESIGN CHOICE,
log 69). -/
def State.composeResumed (s : State) : State :=
  match s.path.waiting with
  | some { cycle := c, why := .composeSlot e } =>
    match s.composeOf e with
    | some (i, x) =>
      match x.write ((s.aperture e).lineOf c.addr) ((s.aperture e).byteOf c.addr) c.data c.be with
      | some y => (s.setCp i (some y)).endCycle none
      | none => s
    | none => s
  | _ => s

end Sys2Proof.Machine
end

