-- ==== Sys2Proof/Machine/ChargePrint.lean ====
section
/-! DEFINITION. Meanings of unit expiries (R161) and the events of the print head, cutter and paper (Chapter 11). -/

namespace Sys2Proof.Machine

/-- UNIT_EXPIRY (R161): The Run Clock reaches a meter's next unit, a new unit is started and priced
by the band in force, and the cap is checked. -/
def execUnitExpiry (l : LineNo) (s : State) : Host.Outcome State Fault Refusal :=
  .next (s.act (.unitExpiry l))

/-- PRINT_LINE_DONE (R176): The head finishes shifting, strobing and stepping a line and the head
line buffer is free, or the copy goes to its cut. -/
def execPrintLineDone (s : State) : Host.Outcome State Fault Refusal :=
  .next (s.act .printLineDone)

/-- CUT_DONE (R177): The cutter reports CUT DONE, copies done rises and the item finishes or returns
to WAITING. -/
def execCutDone (s : State) : Host.Outcome State Fault Refusal :=
  .next (s.act .cutDone)

/-- CUT_TIMEOUT (R177): CUT DONE does not come within 2.0 s of the cut command and the copy is
counted as cut. -/
def execCutTimeout (s : State) : Host.Outcome State Fault Refusal :=
  .next (s.act .cutTimeout)

/-- PAPER_LOSS (R179): The PAPER input reports paper absent and the unit abandons or finishes its
work and enters PAPER WAIT. -/
def execPaperLoss (s : State) : Host.Outcome State Fault Refusal :=
  .next (s.act .paperLoss)

/-- PAPER_RETURN (R179): The PAPER input reports paper present, and the unit leaves PAPER WAIT and
takes the head, or resumes through-print. -/
def execPaperReturn (s : State) : Host.Outcome State Fault Refusal :=
  .next (s.act .paperReturn)

end Sys2Proof.Machine
end

