-- ==== Sys2Proof/Machine/Grants.lean ====
section
/-! DEFINITION. Meanings of the grants of the Coding Engine (R74, R75). -/

namespace Sys2Proof.Machine

/-- SC_GRANT (R83): The Coding Engine grants SC, which codes the oldest ring line in Store Form and
commits it, or enters STORE WAIT on refusal. -/
def execScGrant (sheet : Bool) (s : State) : Host.Outcome State Fault Refusal :=
  .next (s.act (.scGrant sheet))

/-- CP_GRANT (R89): The Coding Engine grants a compose context, which codes one white lead line or
queued line and commits it. -/
def execCpGrant (s : State) : Host.Outcome State Fault Refusal :=
  .next (s.act .cpGrant)

/-- RV_GRANT (R99): The Coding Engine grants a raster context, which decodes one line towards its
target or prefetch line into its cache. -/
def execRvGrant (s : State) : Host.Outcome State Fault Refusal :=
  .next (s.act .rvGrant)

/-- PR_GRANT (R176): The Coding Engine grants PR, which decodes the next line of the copy into the
head line buffer. -/
def execPrGrant (s : State) : Host.Outcome State Fault Refusal :=
  .next (s.act .prGrant)

/-- LN_SEND_GRANT (R74): The Coding Engine grants a sending line context, which decodes one page
line and codes it into the open Parcel. -/
def execLnSendGrant (s : State) : Host.Outcome State Fault Refusal :=
  .next (s.act .lnSendGrant)

/-- LN_RECEIVE_GRANT (R74): The Coding Engine grants a receiving line context, which decodes one
Parcel line or codes one waiting line into the page or through-print. -/
def execLnReceiveGrant (s : State) : Host.Outcome State Fault Refusal :=
  .next (s.act .lnReceiveGrant)

end Sys2Proof.Machine
end

