-- ==== Sys2Proof/Machine/HostCycles.lean ====
section
/-! DEFINITION. Meanings of the host cycles of the P-port (Chapter 1). A row names the cycle that the
host makes; the Path Unit
classifies it by R2 whatever the row (log 2). -/

namespace Sys2Proof.Machine

/-- A read cycle with its attributes. -/
def readCycle (addr : Nat) (be : Enables) (program : Bool) (a : Attr) : Cycle :=
  { addr := addr, data := 0, be := be, write := false, user := a.user, program := program,
    locked := a.locked }

/-- A write cycle with its attributes. -/
def writeCycle (addr : Nat) (data : Word) (be : Enables) (program : Bool) (a : Attr) : Cycle :=
  { addr := addr, data := data, be := be, write := true, user := a.user, program := program,
    locked := a.locked }

/-- INSTRUCTION_FETCH (R3): A PROGRAM-attribute read is served from the DRAM word at its address,
ignoring Apertures and region protection, or ends NO MEMORY at or above the installed size. -/
def execInstructionFetch (addr : BitVec 26) (be : Enables) (a : Attr) (s : State) :
    Host.Outcome State Fault Refusal :=
  .next (s.present (readCycle addr.toNat be true a) a.stretched)

/-- PLAIN_WRITE (R8): A plain DATA write is taken into the Posted Write Queue and ends at once, or
waits for a slot if the queue is full. -/
def execPlainWrite (addr : BitVec 26) (data : Word) (be : Enables) (program : Bool) (a : Attr) (s : State) :
    Host.Outcome State Fault Refusal :=
  .next (s.present (writeCycle addr.toNat data be program a) a.stretched)

/-- PLAIN_READ (R9): A plain read is checked against the Posted Write Queue, drains it through the
youngest matching entry if any, and returns the DRAM word. -/
def execPlainRead (addr : BitVec 26) (be : Enables) (a : Attr) (s : State) :
    Host.Outcome State Fault Refusal :=
  .next (s.present (readCycle addr.toNat be false a) a.stretched)

/-- REGION_READ (R11): A Controller Region read in STARTING or RUNNING drains the queue and returns
the word, waiting for any burst in progress. -/
def execRegionRead (addr : BitVec 26) (be : Enables) (a : Attr) (s : State) :
    Host.Outcome State Fault Refusal :=
  .next (s.present (readCycle addr.toNat be false a) a.stretched)

/-- REGION_WRITE (R18): A Controller Region write to a word with no behaviour of its own drains the
queue, is checked by the region's protection, and is performed or refused. -/
def execRegionWrite (addr : BitVec 26) (data : Word) (be : Enables) (program : Bool) (a : Attr) (s : State) :
    Host.Outcome State Fault Refusal :=
  .next (s.present (writeCycle addr.toNat data be program a) a.stretched)

/-- START_FRESH (R24): A write of START FRESH to the START word is checked and taken, the part
becomes STARTING, and the fresh initialisation of every block begins. -/
def execStartFresh (program : Bool) (a : Attr) (s : State) : Host.Outcome State Fault Refusal :=
  .next (s.present (writeCycle (s.regionBase + Config.startWord) 1 0xF program a) a.stretched)

/-- START_KEEP (R55): A write of START KEEP to the START word is checked and taken, the part becomes
STARTING, and the store, jobs, desks and print queue are rebuilt from DRAM. -/
def execStartKeep (program : Bool) (a : Attr) (s : State) : Host.Outcome State Fault Refusal :=
  .next (s.present (writeCycle (s.regionBase + Config.startWord) 2 0xF program a) a.stretched)

/-- STATUS_FLAGS_WRITE (R26): A host write to the status flags word clears each flag written as
zero, and the held flags are written back. -/
def execStatusFlagsWrite (data : Word) (be : Enables) (program : Bool) (a : Attr) (s : State) :
    Host.Outcome State Fault Refusal :=
  .next (s.present (writeCycle (s.regionBase + Config.statusFlags) data be program a) a.stretched)

/-- INTERRUPT_ENABLE_WRITE (R35): A write to the interrupt enable word turns the Notice Interrupt
enable on or off and writes it back as a flag word. -/
def execInterruptEnableWrite (data : Word) (be : Enables) (program : Bool) (a : Attr) (s : State) :
    Host.Outcome State Fault Refusal :=
  .next (s.present (writeCycle (s.regionBase + Config.interruptEnable)
    data be program a) a.stretched)

/-- POST_INDEX_WRITE (R29): A write to the post index is taken as the new post copy, or clamped to
take plus 64 with REQUEST OVERRUN set. -/
def execPostIndexWrite (data : Word) (be : Enables) (program : Bool) (a : Attr) (s : State) :
    Host.Outcome State Fault Refusal :=
  .next (s.present (writeCycle (s.regionBase + Config.postIndex) data be program a) a.stretched)

/-- NOTICE_CONSUME_INDEX_WRITE (R34): A write to the notice consume index is taken, or clamped to
the produce index, and the Notice Interrupt follows. -/
def execNoticeConsumeIndexWrite (data : Word) (be : Enables) (program : Bool) (a : Attr) (s : State) :
    Host.Outcome State Fault Refusal :=
  .next (s.present (writeCycle (s.regionBase + Config.consumeIndex)
    data be program a) a.stretched)

/-- CLOCK_SET_TENTHS_WRITE (R28): A write to the clock-set tenths word sets the Time of Day from the
clamped weekday and tenths and writes them back. -/
def execClockSetTenthsWrite (data : Word) (be : Enables) (program : Bool) (a : Attr) (s : State) :
    Host.Outcome State Fault Refusal :=
  .next (s.present (writeCycle (s.regionBase + Config.clockTenths) data be program a) a.stretched)

/-- HOLD_LIMIT_WRITE (R15): A write to the Hold Limit word sets the clamped limit for later cycles
and writes back the value in force. -/
def execHoldLimitWrite (data : Word) (be : Enables) (program : Bool) (a : Attr) (s : State) :
    Host.Outcome State Fault Refusal :=
  .next (s.present (writeCycle (s.regionBase + Config.holdLimit) data be program a) a.stretched)

/-- RECEIVE_RESERVE_WRITE (R51): A write to the Receive Reserve sets the clamped held value, writes
it back and re-evaluates the low condition. -/
def execReceiveReserveWrite (data : Word) (be : Enables) (program : Bool) (a : Attr) (s : State) :
    Host.Outcome State Fault Refusal :=
  .next (s.present (writeCycle (s.regionBase + Config.receiveReserve)
    data be program a) a.stretched)

/-- POOR_THRESHOLD_WRITE (R22): A write to the Poor Threshold sets the clamped held value and writes
it back. -/
def execPoorThresholdWrite (data : Word) (be : Enables) (program : Bool) (a : Attr) (s : State) :
    Host.Outcome State Fault Refusal :=
  .next (s.present (writeCycle (s.regionBase + Config.poorThreshold)
    data be program a) a.stretched)

/-- AUTO_PRINT_WRITE (R22): A write to Auto Print sets it OFF or ON and writes it back as a flag
word. -/
def execAutoPrintWrite (data : Word) (be : Enables) (program : Bool) (a : Attr) (s : State) :
    Host.Outcome State Fault Refusal :=
  .next (s.present (writeCycle (s.regionBase + Config.autoPrint) data be program a) a.stretched)

/-- INCOMING_RESERVE_WRITE (R22): A write to the Incoming Reserve sets the clamped held value and
writes it back. -/
def execIncomingReserveWrite (data : Word) (be : Enables) (program : Bool) (a : Attr) (s : State) :
    Host.Outcome State Fault Refusal :=
  .next (s.present (writeCycle (s.regionBase + Config.incomingReserve)
    data be program a) a.stretched)

/-- PATH_FAULT_CAUSE_WRITE (R17): A SUPERVISOR write to the Path Fault cause word empties the record
when it reads zero, or restores the held cause otherwise. -/
def execPathFaultCauseWrite (data : Word) (be : Enables) (program : Bool) (a : Attr) (s : State) :
    Host.Outcome State Fault Refusal :=
  .next (s.present (writeCycle (s.regionBase + Config.faultCause) data be program a) a.stretched)

/-- APERTURE_ENTRY_WRITE (R5): A write to a word of an Aperture Table entry makes the Path Unit re-
read the entry and validate it into its copy. -/
def execApertureEntryWrite (entry word : Fin 8) (data : Word) (be : Enables) (program : Bool) (a : Attr) (s : State) :
    Host.Outcome State Fault Refusal :=
  .next (s.present (writeCycle (s.regionBase + Config.apertureTable + 32 * entry.val + 4 * word.val)
    data be program a) a.stretched)

/-- LINE_CONFIG_WRITE (R105): A write to a word of a Line Config entry makes the Line Channel re-
read the entry into its held configuration. -/
def execLineConfigWrite (line : LineNo) (word : Fin 16) (data : Word) (be : Enables) (program : Bool) (a : Attr) (s : State) :
    Host.Outcome State Fault Refusal :=
  .next (s.present (writeCycle (s.regionBase + Config.lineConfigs + 64 * line.val + 4 * word.val)
    data be program a) a.stretched)

/-- COMPOSE_WRITE (R88): A DATA write into a bound COMPOSE Aperture updates, closes or passes over
lines, or is discarded with DISORDER. -/
def execComposeWrite (addr : BitVec 26) (data : Word) (be : Enables) (program : Bool) (a : Attr) (s : State) :
    Host.Outcome State Fault Refusal :=
  .next (s.present (writeCycle addr.toNat data be program a) a.stretched)

/-- COMPOSE_READ (R88): A DATA read of a bound COMPOSE Aperture ends at once and returns zero. -/
def execComposeRead (addr : BitVec 26) (be : Enables) (a : Attr) (s : State) :
    Host.Outcome State Fault Refusal :=
  .next (s.present (readCycle addr.toNat be false a) a.stretched)

/-- RASTER_READ (R96): A DATA read of a view is served white, from the cache, or sets the target and
waits for the line to be decoded. -/
def execRasterRead (addr : BitVec 26) (be : Enables) (a : Attr) (s : State) :
    Host.Outcome State Fault Refusal :=
  .next (s.present (readCycle addr.toNat be false a) a.stretched)

/-- RASTER_WRITE (R100): A DATA write into a view ends normally and changes nothing. -/
def execRasterWrite (addr : BitVec 26) (data : Word) (be : Enables) (program : Bool) (a : Attr) (s : State) :
    Host.Outcome State Fault Refusal :=
  .next (s.present (writeCycle addr.toNat data be program a) a.stretched)

/-- DIGITS_WRITE (R108): A DATA write into a DIGITS Aperture packs the selected characters into
nibbles of the target area by read-modify-write. -/
def execDigitsWrite (addr : BitVec 26) (data : Word) (be : Enables) (program : Bool) (a : Attr) (s : State) :
    Host.Outcome State Fault Refusal :=
  .next (s.present (writeCycle addr.toNat data be program a) a.stretched)

/-- DIGITS_READ (R109): A DATA read from a DIGITS Aperture returns the canonical character of each
selected nibble. -/
def execDigitsRead (addr : BitVec 26) (be : Enables) (a : Attr) (s : State) :
    Host.Outcome State Fault Refusal :=
  .next (s.present (readCycle addr.toNat be false a) a.stretched)

end Sys2Proof.Machine
end

