-- ==== Sys2Proof/Machine/LineCommands.lean ====
section
/-! DEFINITION. Meanings of the look of the Dispatcher, and the tones, rings, timers and line events of the Line Channels
(Chapters 7 and 9). -/

namespace Sys2Proof.Machine

/-- LOOK (R147): The Dispatcher repeatedly chooses an eligible destination and an allowed line and
gives it a seize order. -/
def execLook (s : State) : Host.Outcome State Fault Refusal :=
  .next (s.act .look)

/-- DIAL_TONE (R111): The pump reports dial tone, which starts dialling from SEIZED or finishes a
wait nibble. -/
def execDialTone (l : LineNo) (s : State) : Host.Outcome State Fault Refusal :=
  .next (s.act (.dialTone l))

/-- DIAL_TONE_TIMEOUT (R111): The 5.0 s dial tone wait expires and the call ends NO TONE. -/
def execDialToneTimeout (l : LineNo) (s : State) : Host.Outcome State Fault Refusal :=
  .next (s.act (.dialToneTimeout l))

/-- BLIND_WAIT_EXPIRY (R111): The 2.0 s blind wait expires and dialling begins. -/
def execBlindWaitExpiry (l : LineNo) (s : State) : Host.Outcome State Fault Refusal :=
  .next (s.act (.blindWaitExpiry l))

/-- DIGIT_SENT (R112): The pump reports a tone digit sent and the next nibble is taken. -/
def execDigitSent (l : LineNo) (s : State) : Host.Outcome State Fault Refusal :=
  .next (s.act (.digitSent l))

/-- DIGIT_SENT_TIMEOUT (R112): DIGIT SENT does not arrive within 2.0 s and the call ends TIMEOUT. -/
def execDigitSentTimeout (l : LineNo) (s : State) : Host.Outcome State Fault Refusal :=
  .next (s.act (.digitSentTimeout l))

/-- PAUSE_EXPIRY (R112): A 2.0 s pause nibble expires and the next nibble is taken. -/
def execPauseExpiry (l : LineNo) (s : State) : Host.Outcome State Fault Refusal :=
  .next (s.act (.pauseExpiry l))

/-- PULSE_BREAK_EXPIRY (R113): A 60 ms pulse break ends and the hook goes off for the make. -/
def execPulseBreakExpiry (l : LineNo) (s : State) : Host.Outcome State Fault Refusal :=
  .next (s.act (.pulseBreakExpiry l))

/-- PULSE_MAKE_EXPIRY (R113): A 40 ms make ends and the next break or the interdigit gap begins. -/
def execPulseMakeExpiry (l : LineNo) (current : Bool) (s : State) :
    Host.Outcome State Fault Refusal :=
  .next (s.act (.pulseMakeExpiry l current))

/-- INTERDIGIT_EXPIRY (R113): The 700 ms gap after a pulse digit expires and the digit is finished.
-/
def execInterdigitExpiry (l : LineNo) (s : State) : Host.Outcome State Fault Refusal :=
  .next (s.act (.interdigitExpiry l))

/-- BUSY_TONE (R114): The pump reports busy tone in ALERTING and the call ends BUSY. -/
def execBusyTone (l : LineNo) (s : State) : Host.Outcome State Fault Refusal :=
  .next (s.act (.busyTone l))

/-- ANSWER_TONE (R114): The pump reports a fax answer tone in ALERTING and the line enters LINKED as
caller. -/
def execAnswerTone (l : LineNo) (s : State) : Host.Outcome State Fault Refusal :=
  .next (s.act (.answerTone l))

/-- ANSWER_TIMEOUT (R114): The answer timeout expires in ALERTING and the call ends NO ANSWER. -/
def execAnswerTimeout (l : LineNo) (s : State) : Host.Outcome State Fault Refusal :=
  .next (s.act (.answerTimeout l))

/-- REVERSAL (R115): A polarity reversal in DIALLING or ALERTING under REVERSAL supervision marks
connect and starts metering. -/
def execReversal (l : LineNo) (s : State) : Host.Outcome State Fault Refusal :=
  .next (s.act (.reversal l))

/-- METER (R162): A metering pulse on an outgoing call counts one pulse and checks the desk's cap.
-/
def execMeter (l : LineNo) (s : State) : Host.Outcome State Fault Refusal :=
  .next (s.act (.meter l))

/-- RING_START (R116): The start of a ring burst begins RINGING, counts a ring, or causes glare on a
SEIZED line. -/
def execRingStart (l : LineNo) (s : State) : Host.Outcome State Fault Refusal :=
  .next (s.act (.ringStart l))

/-- RING_END (R116): The end of a ring burst starts the gap timer or answers the call when the
answer rings are reached. -/
def execRingEnd (l : LineNo) (s : State) : Host.Outcome State Fault Refusal :=
  .next (s.act (.ringEnd l))

/-- RING_GAP_EXPIRY (R116): The 8.0 s ring gap expires and the line returns to IDLE. -/
def execRingGapExpiry (l : LineNo) (s : State) : Host.Outcome State Fault Refusal :=
  .next (s.act (.ringGapExpiry l))

/-- LOOP_SETTLE_EXPIRY (R118): The 0.5 s after hook-off ends and absent loop current is taken as a
loss. -/
def execLoopSettleExpiry (l : LineNo) (current : Bool) (s : State) :
    Host.Outcome State Fault Refusal :=
  .next (s.act (.loopSettleExpiry l current))

/-- LOOP_LOST (R118): Loop current stops while the hook is off and the call ends LINE DROPPED. -/
def execLoopLost (l : LineNo) (s : State) : Host.Outcome State Fault Refusal :=
  .next (s.act (.loopLost l))

/-- FAREWELL_TIMEOUT (R120): The 6.0 s wait for the FAREWELL to be sent expires and the hook goes
on. -/
def execFarewellTimeout (l : LineNo) (s : State) : Host.Outcome State Fault Refusal :=
  .next (s.act (.farewellTimeout l))

/-- REST_EXPIRY (R120): The 2.0 s rest expires, the line becomes IDLE and the Dispatcher is told. -/
def execRestExpiry (l : LineNo) (s : State) : Host.Outcome State Fault Refusal :=
  .next (s.act (.restExpiry l))

end Sys2Proof.Machine
end

