-- ==== Sys2Proof/Machine/LinkCommands.lean ====
section
/-! DEFINITION. Meanings of the events and timers of the link protocol (Chapter 8). -/

namespace Sys2Proof.Machine

/-- FRAME_SENT (R124): The pump reports a link frame sent and the phase advances, or the hook goes
on in CLEARING. -/
def execFrameSent (l : LineNo) (s : State) : Host.Outcome State Fault Refusal :=
  .next (s.act (.frameSent l))

/-- CHECK_SENT (R128): The pump reports the check burst sent and the caller enters AWAIT READY. -/
def execCheckSent (l : LineNo) (s : State) : Host.Outcome State Fault Refusal :=
  .next (s.act (.checkSent l))

/-- CHECK_GOOD (R133): The answerer hears the check burst clean, sends READY and enters RECEIVING.
-/
def execCheckGood (l : LineNo) (s : State) : Host.Outcome State Fault Refusal :=
  .next (s.act (.checkGood l))

/-- CHECK_BAD (R133): The answerer hears the check burst damaged or not at all, sends RATE DOWN and
enters OFFERING. -/
def execCheckBad (l : LineNo) (s : State) : Host.Outcome State Fault Refusal :=
  .next (s.act (.checkBad l))

/-- TONE_PLAYED (R133): The pump reports the answer tone played and the answerer sends OFFER. -/
def execTonePlayed (l : LineNo) (s : State) : Host.Outcome State Fault Refusal :=
  .next (s.act (.tonePlayed l))

/-- TONE_PLAYED_TIMEOUT (R133): TONE PLAYED is not reported within 6.0 s and the call ends TIMEOUT.
-/
def execTonePlayedTimeout (l : LineNo) (s : State) : Host.Outcome State Fault Refusal :=
  .next (s.act (.tonePlayedTimeout l))

/-- PARCEL_TAKEN (R130): The pump takes the whole Parcel, freeing the transmit buffer, and after the
last Parcel PAGE END is sent. -/
def execParcelTaken (l : LineNo) (s : State) : Host.Outcome State Fault Refusal :=
  .next (s.act (.parcelTaken l))

/-- PARCEL_IN (R134): A received Parcel is checked and placed in a free receive buffer or lost, and
the page gap timer restarts. -/
def execParcelIn (l : LineNo) (bytes : List Byte) (s : State) : Host.Outcome State Fault Refusal :=
  .next (s.act (.parcelIn l bytes))

/-- CARRIER_LOST (R134): The high-rate carrier stops during a page before its PAGE END and the call
ends LINE DROPPED. -/
def execCarrierLost (l : LineNo) (s : State) : Host.Outcome State Fault Refusal :=
  .next (s.act (.carrierLost l))

/-- OFFER (R128): The caller takes the answerer's OFFER, chooses coding, rate and resolution and
sends CHOICE. -/
def execOffer (l : LineNo) (body : List Byte) (s : State) : Host.Outcome State Fault Refusal :=
  .next (s.act (.offer l body))

/-- CHOICE (R133): The answerer takes a CHOICE, records it and listens for the check burst. -/
def execChoice (l : LineNo) (body : List Byte) (s : State) : Host.Outcome State Fault Refusal :=
  .next (s.act (.choice l body))

/-- READY (R129): The caller takes READY, fixes the rate class and begins its next page. -/
def execReady (l : LineNo) (body : List Byte) (s : State) : Host.Outcome State Fault Refusal :=
  .next (s.act (.ready l body))

/-- RATE_DOWN (R129): The caller takes RATE DOWN and lowers its rate and sends CHOICE again, or ends
FAILED RATE at rate class 1. -/
def execRateDown (l : LineNo) (body : List Byte) (s : State) : Host.Outcome State Fault Refusal :=
  .next (s.act (.rateDown l body))

/-- PAGE_END (R138): The answerer takes a PAGE END, orders trailing substitutes and enters
FINISHING, or repeats its last VERDICT. -/
def execPageEnd (l : LineNo) (body : List Byte) (s : State) : Host.Outcome State Fault Refusal :=
  .next (s.act (.pageEnd l body))

/-- VERDICT (R131): The caller takes the VERDICT of its page and confirms, resends or ends the call.
-/
def execVerdict (l : LineNo) (body : List Byte) (s : State) : Host.Outcome State Fault Refusal :=
  .next (s.act (.verdict l body))

/-- FAREWELL (R142): The answerer takes a FAREWELL and the call ends RECEIVED. -/
def execFarewell (l : LineNo) (body : List Byte) (s : State) : Host.Outcome State Fault Refusal :=
  .next (s.act (.farewell l body))

/-- FRAME_WAIT_EXPIRY (R127): The 6.0 s frame wait expires and the awaited frame is prompted again,
or the call ends TIMEOUT at the fourth expiry. -/
def execFrameWaitExpiry (l : LineNo) (s : State) : Host.Outcome State Fault Refusal :=
  .next (s.act (.frameWaitExpiry l))

/-- PAGE_GAP_EXPIRY (R134): The 60.0 s page gap timer expires and the call ends TIMEOUT or RECEIVED.
-/
def execPageGapExpiry (l : LineNo) (s : State) : Host.Outcome State Fault Refusal :=
  .next (s.act (.pageGapExpiry l))

/-- VERDICT_DECIDE (R139): When FINISHING has emptied its buffers, the answerer decides, records and
sends the page's VERDICT and seals the page. -/
def execVerdictDecide (l : LineNo) (s : State) : Host.Outcome State Fault Refusal :=
  .next (s.act (.verdictDecide l))

end Sys2Proof.Machine
end

