-- ==== Sys2Proof/Machine/PathEvents.lean ====
section
/-! DEFINITION. Meanings of the events of the memory path (R8, R12, R13, R15, R89, R99). -/

namespace Sys2Proof.Machine

/-- POSTED_SLOT_TAKEN (R8): A plain write that waited on a full Posted Write Queue is taken when a
slot frees and its cycle ends normally. -/
def execPostedSlotTaken (s : State) : Host.Outcome State Fault Refusal :=
  .next s.slotTaken

/-- POSTED_WRITE_DRAIN (R13): The Memory Arbiter grants the oldest Posted Write Queue entry and
performs its write in DRAM. -/
def execPostedWriteDrain (s : State) : Host.Outcome State Fault Refusal :=
  .next s.drainGrant

/-- CYCLE_GRANTED (R15): A host cycle that was stretched by a drain, a burst or an arbiter wait is
granted its access and completes. -/
def execCycleGranted (s : State) : Host.Outcome State Fault Refusal :=
  .next s.cycleGranted

/-- HOLD_LIMIT_EXPIRY (R15): The stretch of a waiting cycle reaches the Hold Limit, and the cycle
ends with bus error NOT READY and has no effect. -/
def execHoldLimitExpiry (s : State) : Host.Outcome State Fault Refusal :=
  .next s.holdExpired

/-- LOCKED_SEQUENCE_END (R12): The processor presents an unlocked cycle or idles with the marker
released, the LOCKED sequence ends, and held record writes resume. -/
def execLockedSequenceEnd (s : State) : Host.Outcome State Fault Refusal :=
  .next s.portIdle

/-- COMPOSE_WRITE_RESUME (R89): A compose write that waited for a closed-line queue slot closes its
line when a slot frees and ends normally. -/
def execComposeWriteResume (s : State) : Host.Outcome State Fault Refusal :=
  .next s.composeResumed

/-- RASTER_READ_COMPLETE (R99): A waiting view read takes its decoded line, or zero data on a seal
or drop, and ends normally. -/
def execRasterReadComplete (s : State) : Host.Outcome State Fault Refusal :=
  .next s.viewReadDone

end Sys2Proof.Machine
end

