-- ==== Sys2Proof/Machine/RequestCommands.lean ====
section
/-! DEFINITION. Meanings of the requests of the Request Ring (R30, R31). -/

namespace Sys2Proof.Machine

/-- SCAN_DOCUMENT (R79): The request is checked and, if accepted, takes SC and starts feeding the
first sheet. -/
def execScanDocument (sheet : Bool) (s : State) : Host.Outcome State Fault Refusal :=
  .next (s.act (.scanDocument sheet))

/-- STOP_SCAN (R85): The request stops the motor, discards the ring, drops any page in progress and
ends the scan STOPPED. -/
def execStopScan (s : State) : Host.Outcome State Fault Refusal :=
  .next (s.act .stopScan)

/-- OPEN_COMPOSE (R87): The request takes a compose context, creates a COMPOSE page and binds the
Aperture to it. -/
def execOpenCompose (s : State) : Host.Outcome State Fault Refusal :=
  .next (s.act .openCompose)

/-- PUSH_COMPOSE (R91): The request closes the current compose line into the queue, waiting for a
slot if the queue is full. -/
def execPushCompose (s : State) : Host.Outcome State Fault Refusal :=
  .next (s.act .pushCompose)

/-- PUSH_COMPOSE_RESUME (R91): A PUSH COMPOSE that waited for a queue slot closes its line when a
slot frees, or ends on truncation, and is answered. -/
def execPushComposeResume (s : State) : Host.Outcome State Fault Refusal :=
  .next (s.act .pushComposeResume)

/-- SEAL_COMPOSE (R91): The request sets the window CLOSING, closes the current line and waits for
the queue and lead to empty. -/
def execSealCompose (s : State) : Host.Outcome State Fault Refusal :=
  .next (s.act .sealCompose)

/-- SEAL_COMPOSE_RESUME (R91): When the compose queue and lead are empty or the page is truncated,
the page is sealed, the Aperture unbound and the request answered. -/
def execSealComposeResume (s : State) : Host.Outcome State Fault Refusal :=
  .next (s.act .sealComposeResume)

/-- BIND_RASTER (R94): The request takes a raster context and a Reference and binds the RASTER
Aperture to the page as a view. -/
def execBindRaster (s : State) : Host.Outcome State Fault Refusal :=
  .next (s.act .bindRaster)

/-- UNBIND (R95): The request removes an Aperture's binding, releasing its context and dropping the
view's Reference or the compose page. -/
def execUnbind (s : State) : Host.Outcome State Fault Refusal :=
  .next (s.act .unbind)

/-- RELEASE_PAGE (R50): The request clears OWNED and drops the owner Reference, freeing a sealed or
dropped page whose count reaches 0. -/
def execReleasePage (s : State) : Host.Outcome State Fault Refusal :=
  .next (s.act .releasePage)

/-- SUBMIT_SEND (R145): The request checks a send job, initialises its destinations by tariff
search, takes page References and queues it. -/
def execSubmitSend (s : State) : Host.Outcome State Fault Refusal :=
  .next (s.act .submitSend)

/-- CANCEL_SEND (R153): The request sets CANCELLING, cancels pending destinations and orders calling
lines clear. -/
def execCancelSend (s : State) : Host.Outcome State Fault Refusal :=
  .next (s.act .cancelSend)

/-- PRINT_PAGE (R174): The request adds a print item for a sealed page with a Reference and starts
printing if the unit is idle. -/
def execPrintPage (s : State) : Host.Outcome State Fault Refusal :=
  .next (s.act .printPage)

/-- CANCEL_PRINT (R178): The request removes a waiting item or marks a printing item as cancelled.
-/
def execCancelPrint (s : State) : Host.Outcome State Fault Refusal :=
  .next (s.act .cancelPrint)

/-- SETTLE_DESK (R168): The request sets a desk's cap and markup, optionally clears its total, and
reopens or caps the desk. -/
def execSettleDesk (s : State) : Host.Outcome State Fault Refusal :=
  .next (s.act .settleDesk)

/-- ABORT_LINE (R121): The request puts a line's hook on at once, fixes ABORTED and carries out
hook-on. -/
def execAbortLine (s : State) : Host.Outcome State Fault Refusal :=
  .next (s.act .abortLine)

/-- UNKNOWN_REQUEST (R31): A request entry whose kind names no request is answered UNKNOWN. -/
def execUnknownRequest (s : State) : Host.Outcome State Fault Refusal :=
  .next (s.act .unknownRequest)

end Sys2Proof.Machine
end

