-- ==== Sys2Proof/Machine/Scanner.lean ====
section
/-! DEFINITION. Meanings of the steps and timers of the Scan Unit (R80 to R84). -/

namespace Sys2Proof.Machine

/-- FEED_STEP (R80): A feeding motor step checks EDGE, and when covered creates the SCAN page and
enters READING. -/
def execFeedStep (edge : Bool) (s : State) : Host.Outcome State Fault Refusal :=
  .next (s.act (.feedStep edge))

/-- FEED_COUNT_EXPIRY (R80): The feed step count reaches 400 without EDGE covered, the motor stops
and the scan ends MISFEED. -/
def execFeedCountExpiry (s : State) : Host.Outcome State Fault Refusal :=
  .next (s.act .feedCountExpiry)

/-- SCAN_LINE_STEP (R81): The motor steps for one line and the unit ends the page, jams, or reads
and thresholds a line into the ring. -/
def execScanLineStep (edge sheet : Bool) (even odd : List Byte) (s : State) :
    Host.Outcome State Fault Refusal :=
  .next (s.act (.scanLineStep edge sheet even odd))

/-- STORE_WAIT_EXPIRY (R83): The 30-second store wait timer runs out, the page is dropped STORE FULL
and the scan ends. -/
def execStoreWaitExpiry (s : State) : Host.Outcome State Fault Refusal :=
  .next (s.act .storeWaitExpiry)

end Sys2Proof.Machine
end

