-- ==== Sys2Proof/Machine/System.lean ====
section
/-! DEFINITION. Meanings of pin reset, STARTED and the tick of the clocks (R1, R25, R27). -/

namespace Sys2Proof.Machine

/-- STARTED (R25): When every block has finished its START work, STARTED is raised, the part becomes
RUNNING and requests are taken. -/
def execStarted (s : State) : Host.Outcome State Fault Refusal :=
  .next (s.act .started)

/-- PIN_RESET (R1): Assertion of the reset pin returns the part to PASS and resets every block's
internal state without writing memory. -/
def execPinReset (size : DramSize) (s : State) : Host.Outcome State Fault Refusal :=
  .next (s.pinReset size)

/-- TENTH_TICK (R27): Each tenth of a second the Time of Day and Run Clock advance, with day and
week rollover and Run Clock wrap. -/
def execTenthTick (s : State) : Host.Outcome State Fault Refusal :=
  .next (s.act .tenthTick)

end Sys2Proof.Machine
end

