-- ==== Sys2Proof/Machine/Dispatch.lean ====
section
/-! DEFINITION. The dispatch: one arm per command, each one direct call of its meaning. -/

namespace Sys2Proof.Machine

/-- The effect of a command on everything but the queue (log 1). -/
def exec (i : Instr) (s : State) : Host.Outcome State Fault Refusal :=
  match i with
  | .instructionFetch addr be a => Sys2Proof.Machine.execInstructionFetch addr be a s
  | .plainWrite addr data be program a => Sys2Proof.Machine.execPlainWrite addr data be program a s
  | .postedSlotTaken => Sys2Proof.Machine.execPostedSlotTaken s
  | .plainRead addr be a => Sys2Proof.Machine.execPlainRead addr be a s
  | .postedWriteDrain => Sys2Proof.Machine.execPostedWriteDrain s
  | .cycleGranted => Sys2Proof.Machine.execCycleGranted s
  | .holdLimitExpiry => Sys2Proof.Machine.execHoldLimitExpiry s
  | .lockedSequenceEnd => Sys2Proof.Machine.execLockedSequenceEnd s
  | .regionRead addr be a => Sys2Proof.Machine.execRegionRead addr be a s
  | .regionWrite addr data be program a => Sys2Proof.Machine.execRegionWrite addr data be program a s
  | .startFresh program a => Sys2Proof.Machine.execStartFresh program a s
  | .startKeep program a => Sys2Proof.Machine.execStartKeep program a s
  | .started => Sys2Proof.Machine.execStarted s
  | .statusFlagsWrite data be program a => Sys2Proof.Machine.execStatusFlagsWrite data be program a s
  | .interruptEnableWrite data be program a => Sys2Proof.Machine.execInterruptEnableWrite data be program a s
  | .postIndexWrite data be program a => Sys2Proof.Machine.execPostIndexWrite data be program a s
  | .noticeConsumeIndexWrite data be program a => Sys2Proof.Machine.execNoticeConsumeIndexWrite data be program a s
  | .clockSetTenthsWrite data be program a => Sys2Proof.Machine.execClockSetTenthsWrite data be program a s
  | .holdLimitWrite data be program a => Sys2Proof.Machine.execHoldLimitWrite data be program a s
  | .receiveReserveWrite data be program a => Sys2Proof.Machine.execReceiveReserveWrite data be program a s
  | .poorThresholdWrite data be program a => Sys2Proof.Machine.execPoorThresholdWrite data be program a s
  | .autoPrintWrite data be program a => Sys2Proof.Machine.execAutoPrintWrite data be program a s
  | .incomingReserveWrite data be program a => Sys2Proof.Machine.execIncomingReserveWrite data be program a s
  | .pathFaultCauseWrite data be program a => Sys2Proof.Machine.execPathFaultCauseWrite data be program a s
  | .apertureEntryWrite entry word data be program a => Sys2Proof.Machine.execApertureEntryWrite entry word data be program a s
  | .lineConfigWrite line word data be program a => Sys2Proof.Machine.execLineConfigWrite line word data be program a s
  | .composeWrite addr data be program a => Sys2Proof.Machine.execComposeWrite addr data be program a s
  | .composeWriteResume => Sys2Proof.Machine.execComposeWriteResume s
  | .composeRead addr be a => Sys2Proof.Machine.execComposeRead addr be a s
  | .rasterRead addr be a => Sys2Proof.Machine.execRasterRead addr be a s
  | .rasterReadComplete => Sys2Proof.Machine.execRasterReadComplete s
  | .rasterWrite addr data be program a => Sys2Proof.Machine.execRasterWrite addr data be program a s
  | .digitsWrite addr data be program a => Sys2Proof.Machine.execDigitsWrite addr data be program a s
  | .digitsRead addr be a => Sys2Proof.Machine.execDigitsRead addr be a s
  | .pinReset size => Sys2Proof.Machine.execPinReset size s
  | .tenthTick => Sys2Proof.Machine.execTenthTick s
  | .scanDocument sheet => Sys2Proof.Machine.execScanDocument sheet s
  | .stopScan => Sys2Proof.Machine.execStopScan s
  | .openCompose => Sys2Proof.Machine.execOpenCompose s
  | .pushCompose => Sys2Proof.Machine.execPushCompose s
  | .pushComposeResume => Sys2Proof.Machine.execPushComposeResume s
  | .sealCompose => Sys2Proof.Machine.execSealCompose s
  | .sealComposeResume => Sys2Proof.Machine.execSealComposeResume s
  | .bindRaster => Sys2Proof.Machine.execBindRaster s
  | .unbind => Sys2Proof.Machine.execUnbind s
  | .releasePage => Sys2Proof.Machine.execReleasePage s
  | .submitSend => Sys2Proof.Machine.execSubmitSend s
  | .cancelSend => Sys2Proof.Machine.execCancelSend s
  | .printPage => Sys2Proof.Machine.execPrintPage s
  | .cancelPrint => Sys2Proof.Machine.execCancelPrint s
  | .settleDesk => Sys2Proof.Machine.execSettleDesk s
  | .abortLine => Sys2Proof.Machine.execAbortLine s
  | .unknownRequest => Sys2Proof.Machine.execUnknownRequest s
  | .scGrant sheet => Sys2Proof.Machine.execScGrant sheet s
  | .cpGrant => Sys2Proof.Machine.execCpGrant s
  | .rvGrant => Sys2Proof.Machine.execRvGrant s
  | .prGrant => Sys2Proof.Machine.execPrGrant s
  | .lnSendGrant => Sys2Proof.Machine.execLnSendGrant s
  | .lnReceiveGrant => Sys2Proof.Machine.execLnReceiveGrant s
  | .feedStep edge => Sys2Proof.Machine.execFeedStep edge s
  | .feedCountExpiry => Sys2Proof.Machine.execFeedCountExpiry s
  | .scanLineStep edge sheet even odd => Sys2Proof.Machine.execScanLineStep edge sheet even odd s
  | .storeWaitExpiry => Sys2Proof.Machine.execStoreWaitExpiry s
  | .look => Sys2Proof.Machine.execLook s
  | .dialTone l => Sys2Proof.Machine.execDialTone l s
  | .dialToneTimeout l => Sys2Proof.Machine.execDialToneTimeout l s
  | .blindWaitExpiry l => Sys2Proof.Machine.execBlindWaitExpiry l s
  | .digitSent l => Sys2Proof.Machine.execDigitSent l s
  | .digitSentTimeout l => Sys2Proof.Machine.execDigitSentTimeout l s
  | .pauseExpiry l => Sys2Proof.Machine.execPauseExpiry l s
  | .pulseBreakExpiry l => Sys2Proof.Machine.execPulseBreakExpiry l s
  | .pulseMakeExpiry l current => Sys2Proof.Machine.execPulseMakeExpiry l current s
  | .interdigitExpiry l => Sys2Proof.Machine.execInterdigitExpiry l s
  | .busyTone l => Sys2Proof.Machine.execBusyTone l s
  | .answerTone l => Sys2Proof.Machine.execAnswerTone l s
  | .answerTimeout l => Sys2Proof.Machine.execAnswerTimeout l s
  | .reversal l => Sys2Proof.Machine.execReversal l s
  | .meter l => Sys2Proof.Machine.execMeter l s
  | .ringStart l => Sys2Proof.Machine.execRingStart l s
  | .ringEnd l => Sys2Proof.Machine.execRingEnd l s
  | .ringGapExpiry l => Sys2Proof.Machine.execRingGapExpiry l s
  | .loopSettleExpiry l current => Sys2Proof.Machine.execLoopSettleExpiry l current s
  | .loopLost l => Sys2Proof.Machine.execLoopLost l s
  | .farewellTimeout l => Sys2Proof.Machine.execFarewellTimeout l s
  | .restExpiry l => Sys2Proof.Machine.execRestExpiry l s
  | .frameSent l => Sys2Proof.Machine.execFrameSent l s
  | .checkSent l => Sys2Proof.Machine.execCheckSent l s
  | .checkGood l => Sys2Proof.Machine.execCheckGood l s
  | .checkBad l => Sys2Proof.Machine.execCheckBad l s
  | .tonePlayed l => Sys2Proof.Machine.execTonePlayed l s
  | .tonePlayedTimeout l => Sys2Proof.Machine.execTonePlayedTimeout l s
  | .parcelTaken l => Sys2Proof.Machine.execParcelTaken l s
  | .parcelIn l bytes => Sys2Proof.Machine.execParcelIn l bytes s
  | .carrierLost l => Sys2Proof.Machine.execCarrierLost l s
  | .offer l body => Sys2Proof.Machine.execOffer l body s
  | .choice l body => Sys2Proof.Machine.execChoice l body s
  | .ready l body => Sys2Proof.Machine.execReady l body s
  | .rateDown l body => Sys2Proof.Machine.execRateDown l body s
  | .pageEnd l body => Sys2Proof.Machine.execPageEnd l body s
  | .verdict l body => Sys2Proof.Machine.execVerdict l body s
  | .farewell l body => Sys2Proof.Machine.execFarewell l body s
  | .frameWaitExpiry l => Sys2Proof.Machine.execFrameWaitExpiry l s
  | .pageGapExpiry l => Sys2Proof.Machine.execPageGapExpiry l s
  | .verdictDecide l => Sys2Proof.Machine.execVerdictDecide l s
  | .unitExpiry l => Sys2Proof.Machine.execUnitExpiry l s
  | .printLineDone => Sys2Proof.Machine.execPrintLineDone s
  | .cutDone => Sys2Proof.Machine.execCutDone s
  | .cutTimeout => Sys2Proof.Machine.execCutTimeout s
  | .paperLoss => Sys2Proof.Machine.execPaperLoss s
  | .paperReturn => Sys2Proof.Machine.execPaperReturn s

end Sys2Proof.Machine
end

