-- ==== Sys2Proof/Safety.lean ====
section
/-! DEFINITION. What counts as a safe state of the part, what its own steps may not change, and the
terms in which the statements about commands are made. -/

namespace Sys2Proof.Machine

/-! ### A sound state

The sizes that the spec gives its queues and buffers, the ranges it clamps its settings into, and the
forms that the model's own fields keep. -/

/-- Every queue, buffer, setting and record of a state is within what the spec gives it. -/
structure State.Sound (s : State) : Prop where
  /-- DRAM is in its canonical form. -/
  memory : s.memory.wf
  /-- The Posted Write Queue holds up to eight entries (R8). -/
  queue : s.path.queue.length ≤ 8
  /-- The Hold Limit is 1 to 255 (R15). -/
  holdLimit : 1 ≤ s.path.holdLimit ∧ s.path.holdLimit ≤ 255
  /-- The Receive Reserve is 0 to 255 (R22). -/
  receiveReserve : s.store.receiveReserve ≤ 255
  /-- The Poor Threshold is 0 to 255 (R22). -/
  poorThreshold : s.poorThreshold ≤ 255
  /-- The Incoming Reserve is 0 to 3 (R22). -/
  incomingReserve : s.dispatcher.incomingReserve ≤ 3
  /-- The weekday is 0 to 6 (R27). -/
  weekday : s.time.weekday ≤ 6
  /-- The tenths of the day are 0 to 863999 (R27). -/
  tenths : s.time.tenths ≤ 863999
  /-- The arbiter holds the third class back only within a LOCKED sequence, or after one while an access of
  the first class waits, and outside PASS (R12, R13). -/
  hold : s.path.hold = true →
    (s.path.sequence = true ∨ s.path.firstClassWaits = true) ∧ s.path.state ≠ .pass
  /-- Outside such a hold nothing waits for its end (R12). -/
  held : s.path.hold = false → s.arbiter.held = [] ∧ s.arbiter.hidden = []
  /-- A cycle that waits has not ended (R15). -/
  waiting : s.path.waiting.isSome = true → s.path.ending = none
  /-- The line ring of the Scan Unit holds up to 16 lines (R81). -/
  ring : s.scan.ring.length ≤ 16
  /-- The feed step count is 0 to 400 (R80). -/
  feedSteps : s.scan.feedSteps ≤ 400
  /-- A line has two receive parcel buffers (R134). -/
  received : ∀ l, (s.line l).received.length ≤ 2
  /-- A closed-line queue holds up to two lines (R89). -/
  composeQueues : ∀ i c, s.compose i = some c → c.queue.length ≤ 2
  /-- A view cache holds up to four lines (R93). -/
  caches : ∀ i v, s.view i = some v → v.cache.length ≤ 4

/-! ### What the part's own steps may not change -/

/-- The settings of the part: what the host alone sets, by its writes and by a START. -/
structure Settings where
  pathState : PathState
  size : DramSize
  holdLimit : Nat
  queue : List Posted
  post : Index
  consume : Index
  startFault : Bool
  requestOverrun : Bool
  interruptEnable : Bool
  leafBase : Nat
  leafCount : Nat
  receiveReserve : Nat
  poorThreshold : Nat
  incomingReserve : Nat
  autoPrint : Bool
  lineConfigs : Vector LineConfig 4
deriving DecidableEq, Repr

/-- The settings of a state. -/
def State.settings (s : State) : Settings :=
  { pathState := s.path.state, size := s.path.size, holdLimit := s.path.holdLimit,
    queue := s.path.queue, post := s.request.post, consume := s.request.consume, startFault := s.request.startFault,
    requestOverrun := s.request.requestOverrun, interruptEnable := s.request.interruptEnable,
    leafBase := s.store.leafBase, leafCount := s.store.leafCount,
    receiveReserve := s.store.receiveReserve, poorThreshold := s.poorThreshold,
    incomingReserve := s.dispatcher.incomingReserve, autoPrint := s.print.autoPrint,
    lineConfigs := s.lines.map (fun x => x.held) }

/-- A command of the host or of the memory path: a host cycle, an event of the P-port or of the
arbiter, the reset pin. -/
def ofHost : Instr → Bool
  | .instructionFetch .. | .plainWrite .. | .postedSlotTaken | .plainRead .. | .postedWriteDrain
  | .cycleGranted | .holdLimitExpiry | .lockedSequenceEnd | .regionRead .. | .regionWrite ..
  | .startFresh .. | .startKeep .. | .statusFlagsWrite .. | .interruptEnableWrite ..
  | .postIndexWrite .. | .noticeConsumeIndexWrite .. | .clockSetTenthsWrite .. | .holdLimitWrite ..
  | .receiveReserveWrite .. | .poorThresholdWrite .. | .autoPrintWrite .. | .incomingReserveWrite ..
  | .pathFaultCauseWrite .. | .apertureEntryWrite .. | .lineConfigWrite .. | .composeWrite ..
  | .composeWriteResume | .composeRead .. | .rasterRead .. | .rasterReadComplete | .rasterWrite ..
  | .digitsWrite .. | .digitsRead .. | .pinReset _ => true
  | _ => false

/-! ### The P-port -/

/-- The P-port is free: no cycle waits, no LOCKED sequence is open, and nothing is held back. -/
structure State.PortFree (s : State) : Prop where
  waiting : s.path.waiting = none
  sequence : s.path.sequence = false
  hold : s.path.hold = false

/-- A DATA cycle at an address is a plain access (R2, R4): below the installed size, outside the
region and under no valid Aperture; or in the region in PASS, but for a write to the START word. -/
def State.plainAt (s : State) (addr : Nat) (write : Bool) : Prop :=
  (s.inRegion addr = true ∧ s.path.state = .pass ∧ (write = true → addr ≠ s.regionBase)) ∨
  (s.inRegion addr = false ∧ addr < s.installed ∧ ∀ e : Fin 8, (s.aperture e).covers addr = false)

/-- A DATA cycle at an address falls under the rules of the Controller Region (R11). -/
def State.regionAt (s : State) (addr : Nat) : Prop := s.inRegion addr = true ∧ s.path.state ≠ .pass

/-- An entry of the Aperture Table copy governs a DATA cycle at an address (R2). -/
def State.governs (s : State) (e : Fin 8) (addr : Nat) : Prop :=
  s.inRegion addr = false ∧ (s.aperture e).covers addr = true ∧
    ∀ f : Fin 8, f < e → (s.aperture f).covers addr = false

/-- A cycle at an address in the range of a bound entry of a kind passes the checks of R6. -/
structure State.Passes (s : State) (e : Fin 8) (kind : ApertureKind) (addr : Nat) (a : Attr) : Prop where
  governs : s.governs e addr
  kind : (s.aperture e).kind = kind
  locked : a.locked = false
  user : a.user = true → (s.aperture e).userAllowed = true

/-- DRAM after the posted writes of a queue, oldest first (R8). -/
def Memory.posted (m : Memory) (q : List Posted) : Memory :=
  q.foldl (fun m w => m.writeWord w.addr w.data w.be) m

/-- The path with its cycle ended. -/
def PathUnit.ended (p : PathUnit) (e : Ending) : PathUnit := { p with waiting := none, ending := some e }

/-- The path with its queue drained and its cycle ended. -/
def PathUnit.drained (p : PathUnit) (e : Ending) : PathUnit := { p.ended e with queue := [] }

/-- An unlocked SUPERVISOR write of at least one byte, not stretched, in STARTING or RUNNING. -/
structure State.Accepts (s : State) (be : Enables) (a : Attr) : Prop where
  free : s.PortFree
  state : s.path.state ≠ .pass
  be : be ≠ 0
  user : a.user = false
  locked : a.locked = false
  stretched : a.stretched = false

/-- The word at an offset of the region written: the queue drained first, the selected bytes changed,
the cycle ended (R11). -/
def State.wordWritten (s : State) (off : Nat) (data : Word) (be : Enables) : State :=
  { s with memory := (s.memory.posted s.path.queue).writeWord (s.regionBase + off) data be,
           path := s.path.drained (.done none) }

/-- An offset of the region at which a written word is acted on (Table 2.3). -/
def observedOffset (off : Nat) : Prop :=
  off ∈ [0x00, 0x08, 0x0C, 0x10, 0x1C, 0x20, 0x24, 0x28, 0x2C, 0x30, 0x38, 0x48]
    ∨ (0x100 ≤ off ∧ off < 0x300)

/-- A Config Block word written by a unit as a record transfer (R13, R14). -/
def State.unitWrote (s : State) (u : Requester) (off v : Nat) : State :=
  { s with memory := s.memory.write (s.regionBase + off) (leBytes 4 v), arbiter := s.arbiter.granted u }

/-! ### The end of a hold -/

/-- The place of a requester in the turns of the third class (R13, Table 1.3): the units in order from the
unit's turn on, and the Line Channels among themselves from their own turn on. -/
def Arbiter.turnPlace (a : Arbiter) (u : Requester) : Nat × Nat :=
  let place : UnitTurn → Nat := fun t => match t with
    | .requestUnit => 0
    | .storeUnit => 1
    | .chargeUnit => 2
    | .lineChannels => 3
    | .dispatcher => 4
    | .printUnit => 5
  let own := match u with
    | .requestUnit => 0
    | .storeUnit => 1
    | .chargeUnit => 2
    | .lineChannel _ => 3
    | .dispatcher => 4
    | .printUnit => 5
  ((own + 6 - place a.unitTurn) % 6, match u with
    | .lineChannel l => (l.val + 4 - a.lineTurn.val) % 4
    | _ => 0)

/-- A held-back transfer is granted next (R13): no requester with one held back stands before its own in the
turns, and it is the oldest of its requester. -/
structure Arbiter.GrantsNext (a : Arbiter) (x : HeldTransfer) : Prop where
  first : ∀ y ∈ a.held, (a.turnPlace x.unit).1 < (a.turnPlace y.unit).1 ∨
    ((a.turnPlace x.unit).1 = (a.turnPlace y.unit).1 ∧ (a.turnPlace x.unit).2 ≤ (a.turnPlace y.unit).2)
  oldest : ∃ before after, a.held = before ++ x :: after ∧ ∀ y ∈ before, y.unit ≠ x.unit

/-- A transfer of the third class performed when it has been taken out of those held back (R13, R26, R32,
R33): a record takes its turn; a notice is entered in the ring, the produce index to follow as the next
transfer of the Request Unit, or is lost while 128 are unread; the status flags word is written, with a flag
where one is set. -/
def State.performed (s : State) : HeldTransfer → State
  | .record u => { s with arbiter := s.arbiter.granted u }
  | .notice bytes =>
    if s.request.unread < 128 then
      { s with
        memory := s.memory.write (s.regionBase + 0xC00 + 16 * (s.request.produce.toNat % 128)) bytes
        arbiter := { s.arbiter.granted .requestUnit with held := .produce :: s.arbiter.held } }
    else
      { s with request := { s.request with noticeLost := true } }.unitWrote .requestUnit 0x08
        { s.request with noticeLost := true }.flagsWord
  | .produce =>
    { s with request := { s.request with produce := s.request.produce + 1 } }.unitWrote .requestUnit 0x18
      (s.request.produce + 1).toNat
  | .flags none => s.unitWrote .requestUnit 0x08 s.request.flagsWord
  | .flags (some f) =>
    { s with request := s.request.withFlag f }.unitWrote .requestUnit 0x08 (s.request.withFlag f).flagsWord

/-- What was held back has been performed, one transfer after the other as they are granted (R12, R13). -/
inductive Performed : State → State → Prop
  | nothing (s : State) : s.arbiter.held = [] → Performed s s
  | next (s t : State) (x : HeldTransfer) : s.arbiter.GrantsNext x →
      Performed (State.performed { s with arbiter := { s.arbiter with held := s.arbiter.held.erase x } } x)
        t → Performed s t

/-- The state in which a LOCKED sequence and its hold have ended, what was held back still to be performed. -/
def State.holdEnded (s : State) : State :=
  { s with path := { s.path with sequence := false, hold := false }
           arbiter := { s.arbiter with hidden := [] } }

/-! ### Shared conclusions and premises -/

/-- The read of a DRAM word by a cycle: what PLAIN_READ and INSTRUCTION_FETCH do (R9). The queue drains
in order through its youngest match and no further, and the word is returned as DRAM then holds it. -/
def readThroughYoungest (s : State) (addr : Nat) (be : Enables)
    (o : Host.Outcome State Fault Refusal) : Prop :=
  ∃ n, n ≤ s.path.queue.length ∧
    (0 < n → ∃ w, s.path.queue[n - 1]? = some w ∧ w.addr = addr) ∧
    (∀ w ∈ s.path.queue.drop n, w.addr ≠ addr) ∧
    o = .next { s with
      memory := s.memory.posted (s.path.queue.take n)
      path := { s.path.ended (.done (some
                  (if be = 0 then 0 else (s.memory.posted (s.path.queue.take n)).readWord addr))) with
                queue := s.path.queue.drop n } }

/-- A state in which a cycle has ended with a bus error (R16, R17): the Path Fault record takes the
cycle when it was empty and sets MORE otherwise, it stands in the Config Block in STARTING and RUNNING,
and nothing else changes. -/
def busErrorEnds (s : State) (c : Cycle) (cause : BusError)
    (o : Host.Outcome State Fault Refusal) : Prop :=
  ∃ f : PathFault,
    (∀ g, s.path.fault = some g → f = { g with more := true }) ∧
    (s.path.fault = none → f.cause = cause ∧ f.addr = c.addr ∧ f.write = c.write ∧ f.user = c.user ∧
      f.program = c.program ∧ f.locked = c.locked ∧ f.weekday = s.time.weekday ∧
      f.tenths = s.time.tenths ∧ f.more = false) ∧
    o = .next { s with
      memory := if s.path.state = .pass then s.memory
        else s.memory.write (s.regionBase + 0x48)
          (leBytes 4 (f.cause.code + 256 * flagValue f.more) ++ leBytes 4 f.addr
            ++ leBytes 4 (flagValue f.user + 2 * flagValue f.program + 4 * flagValue f.locked
              + 8 * flagValue f.write) ++ leBytes 4 (timeWord f.weekday f.tenths))
      path := { s.path.ended (.busError cause) with fault := some f } }

/-- A SUPERVISOR write of START FRESH or START KEEP that meets the conditions of R23, and the state in
which the word has just been written. -/
structure StartWrite (s : State) (keep : Bool) (a : Attr) (w : State) : Prop where
  free : s.PortFree
  user : a.user = false
  locked : a.locked = false
  stretched : a.stretched = false
  word : w = s.wordWritten 0x00 (if keep then 2 else 1) 0xF
  state : s.path.state ≠ .starting
  aligned : w.valueAt 0x3C 4 % 4096 = 0
  leaves : 1 ≤ w.valueAt 0x40 4 ∧ w.valueAt 0x40 4 ≤ 4096
  fits : w.valueAt 0x3C 4 + 4096 * w.valueAt 0x40 4 ≤ s.regionBase

/-- The START command that writes START FRESH or START KEEP. -/
def startCommand (keep program : Bool) (a : Attr) : Instr :=
  if keep then .startKeep program a else .startFresh program a

/-- A byte of memory outside the fields of a page's record that the commit of a line writes (R43): lines,
coded bits, the Restart Table entry of a restart line, and the fields, each by its offset and length, that
the producer writes with the line. -/
def State.besideCommit (s : State) (p : Nat) (fields : List (Nat × Nat)) (x : Nat) : Prop :=
  ∀ y ∈ (0x04, 2) :: (0x08, 4) :: fields
      ++ (if s.pageLines p % 64 = 0 then [(0x60 + 4 * (s.pageLines p / 64), 4)] else []),
    x < s.regionBase + 0x3000 + 256 * p + y.1 ∨ s.regionBase + 0x3000 + 256 * p + y.1 + y.2 ≤ x

/-- The line committed to a FILLING page (R37, R43): the bits stand in the page's stream from its coded bits
on and the bits before them are as they were, the record counts the line and the bits, a restart line is
entered in the Restart Table, and no other byte of memory changes, of the record or outside it, but the
fields that go with the line. The stream is laid along the page's chain, whose Leaves are apart and below
the Controller Region in a sound store. -/
structure Committed (s : State) (m : Memory) (p : Nat) (bits : List Bool) (fields : List (Nat × Nat)) :
    Prop where
  lines : { s with memory := m }.pageLines p = s.pageLines p + 1
  coded : { s with memory := m }.codedBits p = s.codedBits p + bits.length
  restart : s.pageLines p % 64 = 0 →
    { s with memory := m }.restartEntry p (s.pageLines p / 64) = some (s.codedBits p)
  written : ∀ x, s.besideCommit p fields x →
    m.read x = (s.writeStream (s.chainOf p) (s.codedBits p) bits).memory.read x
  stream : (s.chainOf p).Nodup → (∀ leaf ∈ s.chainOf p, s.leafByte leaf 4096 ≤ s.regionBase) →
    ∀ k leaf, k < s.codedBits p + bits.length → (s.chainOf p)[k / 32768]? = some leaf →
      (m.read (s.leafByte leaf (k % 32768 / 8))).getMsbD (k % 8)
        = if k < s.codedBits p then (s.memory.read (s.leafByte leaf (k % 32768 / 8))).getMsbD (k % 8)
          else bits.getD (k - s.codedBits p) false
  others : ∀ x, s.besideCommit p fields x →
    (∀ k leaf, s.codedBits p ≤ k → k < s.codedBits p + bits.length →
      (s.chainOf p)[k / 32768]? = some leaf → x ≠ s.leafByte leaf (k % 32768 / 8)) →
    m.read x = s.memory.read x

/-- A page takes bits without a new Leaf: FILLING, below 2560 lines, with room in its last Leaf. -/
structure State.Fits (s : State) (p n : Nat) : Prop where
  filling : s.pageState p = .filling
  lines : s.pageLines p < 2560
  room : n ≤ s.leavesOf p * 32768 - s.codedBits p

/-- A page takes bits with a new Leaf (R38, R41, R43, Table 3.1): they need more than the room in its last
Leaf and no more than one Leaf beside it, and the depth of the Free Leaf Stack is above the Receive Reserve,
or for a RECEIVE page above 0. The sizes are those of a store within its 4096 Leaves. -/
structure State.Grants (s : State) (p n : Nat) : Prop where
  filling : s.pageState p = .filling
  lines : s.pageLines p < 2560
  room : s.leavesOf p * 32768 - s.codedBits p < n ∧ n ≤ 32768
  taking : s.store.taking = true
  depth : (if s.pageReceived p then 0 else s.store.receiveReserve) < s.store.depth
  page : p < 128 ∧ s.leavesOf p < 4096 ∧ s.codedBits p ≤ s.leavesOf p * 32768 ∧ s.store.depth ≤ 4096
  leaf : s.valueAt (0x0D000 + 2 * (s.store.depth - 1)) 2 < 4096 ∧
    (s.leavesOf p ≠ 0 → s.lastLeaf p < 4096 ∧
      s.lastLeaf p ≠ s.valueAt (0x0D000 + 2 * (s.store.depth - 1)) 2)
  low : s.store.low = decide (s.store.depth ≤ s.store.receiveReserve)

/-- A Leaf has been granted to a page (R38, R40, R41, R51): the one on top of the Free Leaf Stack, whose depth
is one less and written, stands at the end of the page's chain with the END mark, the record counts it, the
low condition is evaluated, and no other byte of memory and nothing else of the state has changed. -/
structure LeafGranted (s t : State) (p : Nat) : Prop where
  state : t = { s with
    memory := t.memory
    store := { s.store with depth := s.store.depth - 1
                            low := decide (s.store.depth - 1 ≤ s.store.receiveReserve) }
    arbiter := s.arbiter.granted .storeUnit }
  top : t.valueAt 0x44 4 = s.store.depth - 1
  last : t.lastLeaf p = s.valueAt (0x0D000 + 2 * (s.store.depth - 1)) 2 ∧
    t.valueAt (0x0B000 + 2 * t.lastLeaf p) 2 = 0xFFFF ∧ t.leavesOf p = s.leavesOf p + 1
  first : s.leavesOf p = 0 → t.firstLeaf p = t.lastLeaf p
  linked : s.leavesOf p ≠ 0 → t.firstLeaf p = s.firstLeaf p ∧
    t.valueAt (0x0B000 + 2 * s.lastLeaf p) 2 = t.lastLeaf p
  others : ∀ x, (∀ y ∈ [(0x44, 4), (0x0B000 + 2 * t.lastLeaf p, 2), (0x3000 + 256 * p + 0x0E, 4),
      (if s.leavesOf p = 0 then 0x3000 + 256 * p + 0x0C else 0x0B000 + 2 * s.lastLeaf p, 2)],
    x < s.regionBase + y.1 ∨ s.regionBase + y.1 + y.2 ≤ x) → t.memory.read x = s.memory.read x

/-- STORE LOW is raised when a change of the depth has begun the low condition (R51). -/
def State.lowRaised (s t : State) : State :=
  if s.store.low = false ∧ t.store.low = true then
    t.raise { kind := .storeLow, subject := [0xFF, 0xFF], value1 := some t.store.depth,
              value2 := some t.store.receiveReserve }
  else t

/-- The commit of a line's bits that the Store Unit makes (R43): in the room of the page's last Leaf, or after
a Leaf has been granted. `made` says what the grant then comes to, of the state in which the bits have their
room and the memory with the line committed. -/
def State.commits (s : State) (p : Nat) (bits : List Bool) (fields : List (Nat × Nat))
    (made : State → Memory → Prop) : Prop :=
  (s.Fits p bits.length → ∃ m, Committed s m p bits fields ∧ made s m) ∧
  (s.Grants p bits.length → ∃ t m, LeafGranted s t p ∧ Committed (s.lowRaised t) m p bits fields ∧
    made (s.lowRaised t) m)

/-- Every Leaf that a commit to a page can write lies below the Controller Region (R23, R36, R38, R40): the Leaf
Area ends there, the page's chain goes through Leaves of the store, as many as its record counts, to the last
Leaf that the record names, and the Leaf on top of the Free Leaf Stack is one of the store. -/
structure State.LeavesBelow (s : State) (p : Nat) : Prop where
  area : s.store.leafBase + 4096 * s.store.leafCount ≤ s.regionBase
  chain : ∀ leaf ∈ s.chainOf p, leaf < s.store.leafCount
  whole : (s.chainOf p).length = s.leavesOf p
  last : s.leavesOf p ≠ 0 → (s.chainOf p).getLast? = some (s.lastLeaf p)
  top : 0 < s.store.depth → s.valueAt (0x0D000 + 2 * (s.store.depth - 1)) 2 < s.store.leafCount

/-- The Store Unit refuses bits of a page: they need a new Leaf, and the depth of the Free Leaf Stack is at
the Receive Reserve, or for a RECEIVE page at 0 (R43, Table 3.1). -/
structure State.Refuses (s : State) (p n : Nat) : Prop where
  filling : s.pageState p = .filling
  lines : s.pageLines p < 2560
  room : s.leavesOf p * 32768 - s.codedBits p < n
  depth : s.store.depth ≤ if s.pageReceived p then 0 else s.store.receiveReserve

/-- The Leaves on the Free Leaf Stack and in the chains of the records that are not FREE (R39). -/
def State.leafAccount (s : State) : Nat :=
  s.store.depth + ((List.range 128).map (fun p =>
    if s.pageState p = .free then 0 else s.leavesOf p)).sum

/-- The holders of References to a page (R47, Table 3.4): the owner, listings in QUEUED jobs, print items,
views, and transmitting lines. -/
def State.holders (s : State) (p : Nat) : Nat :=
  (if s.pageOwned p then 1 else 0)
    + ((List.range 16).map (fun j =>
        if (s.job j).state = .queued then (s.jobPages j).count p else 0)).sum
    + (List.range 32).countP (fun n =>
        ((s.slot n).state == some .waiting || (s.slot n).state == some .printing) && (s.slot n).page == p)
    + ([0, 1] : List (Fin 2)).countP (fun i => match s.view i with
        | some v => v.dec.page == p
        | none => false)
    + ([0, 1, 2, 3] : List LineNo).countP (fun l => match (s.line l).link with
        | some { sending := some x, .. } => x.page == p && x.referenced
        | _ => false)

/-- The pages of the compose contexts and of the views are pages of the directory, and freeing any page
keeps the Free Leaf Stack within its 4096 entries (R38, R39). -/
structure State.StoreBounded (s : State) : Prop where
  composed : ∀ i c, s.compose i = some c → c.enc.page < 128
  viewed : ∀ i v, s.view i = some v → v.dec.page < 128
  stack : ∀ p, p < 128 → s.store.depth + (s.chainOf p).length ≤ 4096

/-- The notice that stands in the ring at an index (R32). -/
def State.noticeAt (s : State) (k : Index) : List Byte := s.bytesAt (0xC00 + 16 * (k.toNat % 128)) 16

/-- The last notice raised. -/
def State.lastNotice (s : State) : List Byte := s.noticeAt (s.request.produce - 1)

/-- The Request Unit takes a request of a kind now: no LOCKED sequence holds the third class back, and no
host write to the entry that the request claims waits (R12, R20, R30). -/
structure State.Takes (s : State) (k : RequestKind) : Prop where
  hold : s.path.hold = false
  request : s.requestIs k.code = true
  claim : s.claimWaits k = false

/-- A request of a kind is refused by the first of its checks that fails, with that check's result, and
nothing else comes of it but its answer (R31). -/
def State.refusedBy (s : State) (i : Instr) (k : RequestKind) : List (Prop × Result) → Prop
  | [] => True
  | (fails, r) :: rest => (fails → exec i s = .next (s.reply k r)) ∧ (¬ fails → s.refusedBy i k rest)

/-- A page has been created in the lowest-numbered FREE record (R42): FILLING and OWNED with one
Reference, nothing in its stream, and every other Page Record as it was. -/
structure Created (s t : State) (p : Nat) (o : Origin) (r : Resolution) : Prop where
  lowest : p < 128 ∧ s.pageState p = .free ∧ ∀ q, q < p → s.pageState q ≠ .free
  state : t.pageState p = .filling
  origin : t.valueAt (pageOffset p + 1) 1 = o.code
  resolution : t.pageResolution p = r
  owned : t.pageOwned p = true
  references : t.references p = 1
  stream : t.pageLines p = 0 ∧ t.codedBits p = 0 ∧ t.leavesOf p = 0
  others : ∀ q, q < 128 → q ≠ p → t.bytesAt (pageOffset q) 256 = s.bytesAt (pageOffset q) 256

/-! ### The Coding Engine's choice and the decoding of stored lines -/

/-- A view has a line to decode (R66, R98, R99): the line wanted is not cached, the page is not DROPPED, and
the next line towards it, onward from where the view stands or from the restart line, is committed. -/
def State.decodes (s : State) (v : ViewContext) (line : Nat) : Prop :=
  (∀ y ∈ v.cache, y.1 ≠ line) ∧ s.pageState v.dec.page ≠ .dropped ∧
    if 64 * (line / 64) ≤ v.dec.next ∧ v.dec.next ≤ line then v.dec.next < s.pageLines v.dec.page
    else 64 * (line / 64) < s.pageLines v.dec.page

/-- A line context has receiving work (Table 4.5): a waiting line or a Parcel, and an output that can take a
line. -/
def State.receives (s : State) (l : LineNo) : Prop :=
  (s.line l).state = .linked ∧ ∃ k x, (s.line l).link = some k ∧ k.page = some x ∧
    (x.waiting ≠ [] ∨ (s.line l).received ≠ []) ∧
    ((∃ p, x.output = .stored p) ∨ (x.output = .through ∧ s.print.state = .through ∧
      s.print.owner = some l ∧ s.print.buffer = none))

/-- A line context has sending work (Table 4.5): the transmit parcel buffer is free, and a transmitted line
remains or a pending line waits. -/
def State.transmits (s : State) (l : LineNo) : Prop :=
  (s.line l).state = .linked ∧ (∃ k, (s.line l).link = some k ∧ k.phase = .sending) ∧
    (s.line l).transmit = none ∧
    ∃ n h, s.lnContext l = some n ∧ n.send = some h ∧ (h.nextSent < h.total ∨ h.pending ≠ none)

/-- A context is READY and stands in an engine class (R73, Table 4.5), the classes numbered from 0. A line
context receives or sends by the direction of its call, and only one that does not receive sends. -/
def State.standsIn (s : State) (k : Fin 7) : Ctx → Prop
  | .rv i => ∃ v, s.view i = some v ∧
      ((k = 0 ∧ ∃ line, v.target = some line ∧ s.decodes v line) ∨
        (k = 6 ∧ v.target = none ∧ ∃ line, v.fetch = some line ∧ line < 2560 ∧
          (s.pageState v.dec.page = .sealed → line < s.pageLines v.dec.page) ∧ s.decodes v line))
  | .ln l => (k = 1 ∧ s.receives l) ∨ (k = 3 ∧ ¬ s.receives l ∧ s.transmits l)
  | .pr => k = 2 ∧ s.print.state = .printing ∧ s.print.current ≠ none ∧ s.print.buffer = none ∧
      ∃ f, s.engine.pr = some f ∧ f.next < s.pageLines f.page
  | .sc => k = 4 ∧ (s.scan.state = .reading ∨ s.scan.state = .closing) ∧ s.scan.ring ≠ [] ∧
      s.engine.sc ≠ none
  | .cp i => k = 5 ∧ ∃ c, s.compose i = some c ∧ (c.queue ≠ [] ∨ 0 < c.lead)

/-- The place of a context in a class's turn: 0 for the one at which the turn stands, and on in context order
(R75). -/
def State.turnPlace (s : State) (k : Fin 7) (c : Ctx) : Nat :=
  let place := match c with
    | .sc => 0
    | .cp i => 1 + i.val
    | .rv i => 3 + i.val
    | .pr => 5
    | .ln l => 6 + l.val
  (place + 10 - s.engine.turns[k].val) % 10

/-- The context that the engine grants (R75): READY in the lowest class that any stands in, and the first of
its class from the class's turn on. -/
structure State.GrantedNext (s : State) (k : Fin 7) (c : Ctx) : Prop where
  stands : s.standsIn k c
  lowest : ∀ j d, s.standsIn j d → k ≤ j
  first : ∀ d, s.standsIn k d → s.turnPlace k c ≤ s.turnPlace k d

/-- The Leaves of a page's chain are Leaves of the store. -/
def State.ChainStands (s : State) (p : Nat) : Prop := ∀ leaf ∈ s.chainOf p, leaf < s.store.leafCount

/-- A decode reads its line from a frame (R66): at a line error the line is white with the ERROR mark, and so
is every line up to the next restart line; otherwise it is the line read, which becomes the reference, and
the position moves past its bits, along the page's chain. -/
structure State.ReadsLine (s : State) (g : DecodeFrame) (d : Decoded) : Prop where
  error : readLine (.reference 8) (s.streamBit g.page g.pos) g.pos.offset g.reference = none →
    d.pixels = 0 ∧ d.error = true ∧
      d.frame = { g with next := g.next + 1, errorBelow := 64 * (g.next / 64) + 64 }
  read : ∀ x after,
    readLine (.reference 8) (s.streamBit g.page g.pos) g.pos.offset g.reference = some (x, after) →
    d.pixels = x ∧ d.error = false ∧
      d.frame = { g with next := g.next + 1, reference := x, pos := d.frame.pos } ∧
      d.frame.pos.offset = after ∧
      ∀ leaf, s.ChainStands g.page → (s.chainOf g.page)[g.pos.chain]? = some g.pos.leaf →
        (s.chainOf g.page)[max g.pos.chain ((after - 1) / 32768)]? = some leaf →
        d.frame.pos = { leaf := leaf, chain := max g.pos.chain ((after - 1) / 32768), offset := after }

/-! ### Scans -/

/-- A scan has ended with a code, its page in progress dropped with it (R46, R86). -/
structure ScanDropped (s t : State) (code p : Nat) : Prop where
  idle : t.scan.state = .idle ∧ t.scan.ring = [] ∧ t.scan.page = none ∧ t.engine.sc = none
  page : t.pageOwned p = false ∧ (t.pageState p = .dropped ∨ t.pageState p = .free)
  dropped : (t.noticeAt s.request.produce).take 12 = [4, BitVec.ofNat 8 code, BitVec.ofNat 8 p, 0xFF]
    ++ leBytes 4 s.timeOfDay ++ leBytes 4 (s.references p - if s.pageOwned p then 1 else 0)
  ended : t.lastNotice = [6, BitVec.ofNat 8 code, 0xFF, 0xFF] ++ leBytes 4 s.timeOfDay
    ++ leBytes 4 s.scan.pagesSealed ++ leBytes 4 p

/-- A scanned page has been sealed when its sheet was done, and the next sheet is fed or the scan has ended
DONE (R45, R84, R86). -/
structure SheetClosed (s t : State) (p : Nat) (sheet : Bool) : Prop where
  sealed : t.pageState p = .sealed ∧ t.valueAt (pageOffset p + 0x14) 4 = s.timeOfDay
  noticed : (t.noticeAt s.request.produce).take 1 = [3] ∧
    (t.noticeAt s.request.produce).drop 2 = [BitVec.ofNat 8 p, 0xFF] ++ leBytes 4 s.timeOfDay
      ++ leBytes 4 (s.pageLines p) ++ leBytes 4 (s.references p)
  counted : t.scan.pagesSealed = s.scan.pagesSealed + 1 ∧ t.scan.page = none
  fed : sheet = true → s.scan.pagesSealed + 1 < s.scan.maxPages →
    t.scan.state = .feeding ∧ t.scan.feedSteps = 0
  ended : sheet = false ∨ s.scan.maxPages ≤ s.scan.pagesSealed + 1 →
    t.scan.state = .idle ∧ t.engine.sc = none ∧ t.lastNotice = [6, 32, 0xFF, 0xFF]
      ++ leBytes 4 s.timeOfDay ++ leBytes 4 (s.scan.pagesSealed + 1) ++ leBytes 4 0xFFFFFFFF

/-! ### The Print Queue -/

/-- One item leads another: URGENT before normal, then the smaller entry number (R173). -/
def State.leads (s : State) (n m : Nat) : Prop :=
  ((s.slot n).urgent = true ∧ (s.slot m).urgent = false) ∨
    ((s.slot n).urgent = (s.slot m).urgent ∧ (s.slot n).entry < (s.slot m).entry)

/-- The item at the head of the Print Queue: it leads every other WAITING one (R173). -/
structure State.HeadIs (s : State) (n : Nat) : Prop where
  waiting : n < 32 ∧ (s.slot n).state = some .waiting
  first : ∀ m, m < 32 → m ≠ n → (s.slot m).state = some .waiting → s.leads n m

/-- A copy of the item in a slot has begun (R176): PRINTING with PR at line 0, or at its cut for a page of 0
lines. -/
structure CopyBegun (s t : State) (n : Nat) : Prop where
  slot : t.slot n = { s.slot n with state := some .printing }
  unit : t.print.current = some n ∧ t.print.buffer = none ∧ t.print.paperSteps = 0
  state : t.print.state = if s.pageLines (s.slot n).page = 0 then .cutting else .printing
  context : t.engine.pr = some { page := (s.slot n).page, next := 0
                                 pos := { leaf := s.firstLeaf (s.slot n).page, chain := 0, offset := 0 }
                                 reference := 0, errorBelow := 0 }

/-- A sealed received page has been handed to auto-print (R140, R175), the Print Unit not being IDLE. With
Auto Print OFF, with no slot EMPTY or with 251 References, nothing is added. Otherwise the lowest-numbered
EMPTY slot takes a WAITING item of one copy with origin AUTO, URGENT by a valid entry of the Flash List with
the page's Station Tag, and a Reference is taken. -/
structure AutoPrinted (s t : State) (p : Nat) : Prop where
  off : s.print.autoPrint = false ∨ 251 ≤ s.references p ∨ (∀ n, n < 32 → (s.slot n).state ≠ some .empty) →
    t.references p = s.references p ∧ ∀ n, n < 32 → t.slot n = s.slot n
  entered : ∀ n, s.print.autoPrint = true → s.store.taking = true → s.references p ≤ 250 →
    s.print.state ≠ .idle → s.print.entryCount < 4294967296 → n < 32 → (s.slot n).state = some .empty →
    (∀ m, m < n → (s.slot m).state ≠ some .empty) →
    t.references p = s.references p + 1 ∧
      (∃ urgent, t.slot n = { state := some .waiting, page := p, copies := 1, copiesDone := 0
                              urgent := urgent, auto := true, cancelled := false
                              entry := s.print.entryCount } ∧
        (urgent = true ↔ ∃ i, i < 8 ∧ s.valueAt (0x1A00 + 32 * i) 1 ≠ 0 ∧
          s.bytesAt (0x1A00 + 32 * i + 4) 10 = s.pageTag p)) ∧
      ∀ m, m < 32 → m ≠ n → t.slot m = s.slot m

/-! ### Dispatching -/

/-- The fields of a job's host half are within Table 9.1 (R145, check 3). -/
structure State.JobWithin (s : State) (j : Nat) : Prop where
  ceiling : s.jobCeiling j ≤ 3 ∨ s.jobCeiling j = 15
  attempts : 1 ≤ s.jobAttempts j ∧ s.jobAttempts j ≤ 9
  gap : 1 ≤ s.jobGap j ∧ s.jobGap j ≤ 60
  pages : 1 ≤ s.jobPageCount j ∧ s.jobPageCount j ≤ 32
  destinations : 1 ≤ s.jobDestinations j ∧ s.jobDestinations j ≤ 48

/-- A Tariff Table entry matches a number given up to its end mark (R157): it is valid, its prefix is at most
16 nibbles and at most as long as the number, and the number begins with it. -/
def State.tariffTakes (s : State) (i : Nat) (number : List Nibble) : Prop :=
  let n := s.valueAt (0x2000 + 16 * i + 2) 1
  s.valueAt (0x2000 + 16 * i) 1 ≠ 0 ∧ n ≤ 16 ∧ n ≤ number.length ∧
    (nibbles (s.bytesAt (0x2000 + 16 * i + 4) 8)).take n = number.take n

/-- A destination may be dialled now: the six conditions of R148. -/
structure State.MayDial (s : State) (j d : Nat) : Prop where
  job : (s.job j).state = .queued ∧ (s.job j).cancelling = false
  pending : (s.destination j d).state = .pending
  number : ∀ l c f, (s.line l).call = some c → c.out = some f →
    dialledPart f.number ≠ dialledPart (s.number j d)
  time : (s.destination j d).nextTry ≤ s.time.runClock.toNat
  desk : (s.desk (s.jobDesk j)).capped = false
  ceiling : s.jobCeiling j = 15 ∨ s.bandInForce ≤ s.jobCeiling j

/-- The destination that a choice takes (R149): it may be dialled, and every other that may be dialled comes
after it: URGENT jobs first, then the order of the submit list, then the index. -/
structure State.FirstDue (s : State) (j d : Nat) : Prop where
  listed : j ∈ s.dispatcher.submitList ∧ d < s.jobDestinations j ∧ d < 48
  due : s.MayDial j d
  first : ∀ k e, k ∈ s.dispatcher.submitList → e < s.jobDestinations k → e < 48 → s.MayDial k e →
    (k, e) ≠ (j, d) →
    (s.jobUrgent j = true ∧ s.jobUrgent k = false) ∨ (s.jobUrgent j = s.jobUrgent k ∧
      ((k = j ∧ d < e) ∨ s.dispatcher.submitList.idxOf j < s.dispatcher.submitList.idxOf k))

/-- A choice may take a line (R149): IDLE, held OUT or BOTH, and as many other IDLE lines held IN or BOTH as
the Incoming Reserve asks. -/
def State.mayTake (s : State) (l : LineNo) : Prop :=
  (s.line l).state = .idle ∧ (s.line l).held.direction ≠ .incoming ∧
    s.dispatcher.incomingReserve ≤ ([0, 1, 2, 3] : List LineNo).countP (fun k =>
      decide (k ≠ l) && decide ((s.line k).state = .idle) && decide ((s.line k).held.direction ≠ .outgoing))

/-! ### Line Channels -/

/-- No LOCKED sequence holds record writes back, and no clear order waits (R12, R119). -/
structure State.Quiet (s : State) : Prop where
  hold : s.path.hold = false
  orders : s.charge.orders = []

/-- A step that replaces a Line Channel and brings the Line Records up to date (R123). -/
def State.becomes (s : State) (l : LineNo) (x : LineChannel) : Host.Outcome State Fault Refusal :=
  .next (s.setLine l x).syncLines

/-- A line whose pump has been given a send command (R124). -/
def LineChannel.sends (x : LineChannel) (c : PumpCommand) : LineChannel :=
  { x with pump := { x.pump with command := some c, sending := some c, listen := none } }

/-- A line whose pump has been given a listen command (R124). -/
def LineChannel.listens (x : LineChannel) (c : PumpCommand) : LineChannel :=
  { x with pump := { x.pump with command := some c, listen := some c } }

/-- A line whose send in progress has ended (R124). -/
def LineChannel.sent (x : LineChannel) : LineChannel := { x with pump := { x.pump with sending := none } }

/-- A line at rest after its call: hook on, the facts of the call emptied, 2.0 s running (R120). -/
def LineChannel.atRest (held : LineConfig) : LineChannel :=
  { LineChannel.reset with state := .resting, timer := some { kind := .rest, ms := 2000 }, held := held }

/-- A caller's line in CLEARING with an outcome, its FAREWELL being sent (R120, R132). -/
def LineChannel.clears (x : LineChannel) (c : Call) (k : Link) (o : CallOutcome) : LineChannel :=
  LineChannel.sends
    { x with
      state := .clearing
      timer := some { kind := .farewell, ms := 6000 }
      settling := false
      call := some { c with outcome := some o }
      link := some k
      received := []
      transmit := none } (.sendFrame .farewell)

/-- The events that end an outgoing call with an outcome before it is LINKED (R111 to R114, R118). -/
def State.callEnder (s : State) (l : LineNo) (i : Instr) (o : CallOutcome) : Prop :=
  (i = .dialToneTimeout l ∧ s.timerIs l .dialTone = true ∧ o = .noTone) ∨
  (i = .digitSentTimeout l ∧ s.timerIs l .digitSent = true ∧ o = .timeout) ∨
  (i = .answerTimeout l ∧ s.timerIs l .answer = true ∧ o = .noAnswer) ∨
  (i = .busyTone l ∧ (s.line l).state = .alerting ∧ o = .busy) ∨
  (i = .pulseMakeExpiry l false ∧ s.timerIs l .pulseMake = true ∧ o = .lineDropped) ∨
  (s.timerIs l .pulseBreak = false ∧ s.timerIs l .pulseMake = false ∧ o = .lineDropped ∧
    ((i = .loopLost l ∧ (s.line l).offHook = true ∧ (s.line l).settling = false) ∨
      (i = .loopSettleExpiry l false ∧ (s.line l).settling = true)))

/-- The events that let a line dial on, with the count of nibbles finished by then (R111 to R113): the end
of a seizure wait, and the end of a nibble's work. -/
def State.dialsOn (s : State) (l : LineNo) (c : Call) (i : Instr) (n : Nat) : Prop :=
  ((s.line l).state = .seized ∧ n = c.dialled ∧
    ((i = .dialTone l ∧ s.timerIs l .dialTone = true) ∨
      (i = .blindWaitExpiry l ∧ s.timerIs l .blindWait = true))) ∨
  ((s.line l).state = .dialling ∧ n = c.dialled + 1 ∧
    ((i = .dialTone l ∧ s.timerIs l .dialTone = true) ∨
      (i = .digitSent l ∧ s.timerIs l .digitSent = true) ∨
      (i = .pauseExpiry l ∧ s.timerIs l .pause = true) ∨
      (i = .interdigitExpiry l ∧ s.timerIs l .interdigit = true)))

/-- A LINKED line with its call and link state. -/
structure State.LinkedWith (s : State) (l : LineNo) (c : Call) (k : Link) : Prop where
  quiet : s.Quiet
  state : (s.line l).state = .linked
  call : (s.line l).call = some c
  link : (s.line l).link = some k

/-- The events that end a LINKED call on either side with an outcome and no FAREWELL (R118, R121): a loss of loop
current, its absence 0.5 s after the hook went off, and an ABORT LINE. -/
def State.linkEnder (s : State) (l : LineNo) (i : Instr) (o : CallOutcome) : Prop :=
  (s.timerIs l .pulseBreak = false ∧ s.timerIs l .pulseMake = false ∧ o = .lineDropped ∧
    ((i = .loopLost l ∧ (s.line l).offHook = true ∧ (s.line l).settling = false) ∨
      (i = .loopSettleExpiry l false ∧ (s.line l).settling = true))) ∨
  (i = .abortLine ∧ o = .aborted ∧ s.Takes .abortLine ∧ s.argument 1 = l.val)

/-- An incoming call has ended with an outcome code (R120, R142, R170): the line rests, its LN context is
FREE, and the Call Log holds the outcome in the slot of the sequence taken. -/
def incomingEnds (s : State) (l : LineNo) (code : Nat) (o : Host.Outcome State Fault Refusal) : Prop :=
  ∃ t, o = .next t ∧ t.line l = LineChannel.atRest (s.line l).held ∧ t.lnContext l = none ∧
    t.charge.sequence = s.charge.sequence + 1 ∧
    t.valueAt (0x16000 + 64 * (s.charge.sequence.toNat % 256) + 9) 1 = code

/-- A caller has begun a page (R78, R130): the transmitting Reference taken, the page's sequence given out,
the sending half at line 0, the phase SENDING. -/
structure PageBegun (s t : State) (l : LineNo) (k : Link) (n : LineContext) (p i times total : Nat)
    (draft : Bool) : Prop where
  line : t.line l = { s.line l with
    timer := none
    link := some { k with
      phase := .sending
      nextSeq := k.nextSeq + 1
      sending := some { index := i, page := p, seq := k.nextSeq, times := times, referenced := true } } }
  context : t.lnContext l = some { n with
    draft := draft
    send := some {
      dec := { page := p, next := 0, pos := { leaf := s.firstLeaf p, chain := 0, offset := 0 },
               reference := 0, errorBelow := 0 }
      seq := k.nextSeq, nextSent := 0, total := total, reference := 0, nonDirect := 0, parcel := none,
      pending := none } }
  meter : (t.meterOf l).pageInProgress = true

/-- A page of a caller's list as it is sent (R70, R130): its sending resolution under the FINE offer, its
draft reduction, and its transmitted lines. -/
structure State.SentAs (s : State) (p : Nat) (fine : Bool) (r : Resolution) (draft : Bool)
    (total : Nat) : Prop where
  resolution : r = if s.pageResolution p = .fine ∧ fine = true then .fine else .draft
  reduced : draft = true ↔ s.pageResolution p = .fine ∧ r = .draft
  total : total = if draft then (s.pageLines p + 1) / 2 else s.pageLines p

end Sys2Proof.Machine
end

