-- ==== Sys2Proof/WellFormed.lean ====
section
/-! DEFINITION. Which commands are well formed: what a bus, a sensor or a pump can hand over. -/

namespace Sys2Proof

/-- A word address is a multiple of four (Conventions, Addresses). -/
abbrev wordAligned (addr : BitVec 26) : Bool := addr.toNat % 4 == 0

/-- The most bytes of a Parcel: header, payload of 8192 bits and check (R67, R68, R183); that no longer one
arrives is the model's (DESIGN CHOICE, log 77). -/
def maxParcelBytes : Nat := 1032

/-- The most bytes of a link frame after its kind: a CHOICE with its check (Table 12.9); that no longer one
arrives is the model's (DESIGN CHOICE, log 77). -/
def maxFrameBody : Nat := 16

/-- The operands are ones that can arrive. The bounds on what is heard are the model's (DESIGN CHOICE, log 77):
R183 disregards a frame of a wrong length, and so does `exec`. -/
def Instr.wellFormed : Instr → Bool
  | .instructionFetch addr _ _ => wordAligned addr
  | .plainWrite addr _ _ _ _ => wordAligned addr
  | .plainRead addr _ _ => wordAligned addr
  | .regionRead addr _ _ => wordAligned addr
  | .regionWrite addr _ _ _ _ => wordAligned addr
  | .composeWrite addr _ _ _ _ => wordAligned addr
  | .composeRead addr _ _ => wordAligned addr
  | .rasterRead addr _ _ => wordAligned addr
  | .rasterWrite addr _ _ _ _ => wordAligned addr
  | .digitsWrite addr _ _ _ _ => wordAligned addr
  | .digitsRead addr _ _ => wordAligned addr
  | .scanLineStep _ _ even odd => even.length == 896 && odd.length == 896
  | .parcelIn _ bytes => decide (bytes.length ≤ maxParcelBytes)
  | .offer _ body => decide (body.length ≤ maxFrameBody)
  | .choice _ body => decide (body.length ≤ maxFrameBody)
  | .ready _ body => decide (body.length ≤ maxFrameBody)
  | .rateDown _ body => decide (body.length ≤ maxFrameBody)
  | .pageEnd _ body => decide (body.length ≤ maxFrameBody)
  | .verdict _ body => decide (body.length ≤ maxFrameBody)
  | .farewell _ body => decide (body.length ≤ maxFrameBody)
  | .postedSlotTaken | .postedWriteDrain | .cycleGranted | .holdLimitExpiry | .lockedSequenceEnd
  | .startFresh _ _ | .startKeep _ _ | .started | .statusFlagsWrite _ _ _ _
  | .interruptEnableWrite _ _ _ _ | .postIndexWrite _ _ _ _ | .noticeConsumeIndexWrite _ _ _ _
  | .clockSetTenthsWrite _ _ _ _ | .holdLimitWrite _ _ _ _ | .receiveReserveWrite _ _ _ _
  | .poorThresholdWrite _ _ _ _ | .autoPrintWrite _ _ _ _ | .incomingReserveWrite _ _ _ _
  | .pathFaultCauseWrite _ _ _ _ | .apertureEntryWrite _ _ _ _ _ _ | .lineConfigWrite _ _ _ _ _ _
  | .composeWriteResume | .rasterReadComplete | .pinReset _ | .tenthTick | .scanDocument _
  | .stopScan | .openCompose | .pushCompose | .pushComposeResume | .sealCompose
  | .sealComposeResume | .bindRaster | .unbind | .releasePage | .submitSend | .cancelSend
  | .printPage | .cancelPrint | .settleDesk | .abortLine | .unknownRequest | .scGrant _ | .cpGrant
  | .rvGrant | .prGrant | .lnSendGrant | .lnReceiveGrant | .feedStep _ | .feedCountExpiry
  | .storeWaitExpiry | .look | .dialTone _ | .dialToneTimeout _ | .blindWaitExpiry _ | .digitSent _
  | .digitSentTimeout _ | .pauseExpiry _ | .pulseBreakExpiry _ | .pulseMakeExpiry _ _
  | .interdigitExpiry _ | .busyTone _ | .answerTone _ | .answerTimeout _ | .reversal _ | .meter _
  | .ringStart _ | .ringEnd _ | .ringGapExpiry _ | .loopSettleExpiry _ _ | .loopLost _
  | .farewellTimeout _ | .restExpiry _ | .frameSent _ | .checkSent _ | .checkGood _ | .checkBad _
  | .tonePlayed _ | .tonePlayedTimeout _ | .parcelTaken _ | .carrierLost _ | .frameWaitExpiry _
  | .pageGapExpiry _ | .verdictDecide _ | .unitExpiry _ | .printLineDone | .cutDone | .cutTimeout
  | .paperLoss | .paperReturn => true

end Sys2Proof
end

