-- ==== Sys2Proof/Certificates/Slice0/Obligations.lean ====
section
/-! DEFINITION. The statements for the provers. Each definition is one statement; its docstring names the
rules of spec/ that it comes from. -/

open Sys2Proof Sys2Proof.Machine

/-! ### The machine as a whole -/

/-- A step takes the command at the front of the queue and carries it out on the queue's rest; on an
empty queue the block idles. The queue is the model's (log 1). -/
def Obligations.StepTakesTheFrontCommand : Prop :=
  (∀ (c : Instr) (rest : List Instr) (s : State),
    step (s.withPending (c :: rest)) = exec c (s.withPending rest)) ∧
  ∀ s : State, step (s.withPending []) = .next (s.withPending [])

/-- The state after pin reset is sound. -/
def Obligations.ResetIsSound : Prop := State.reset.Sound

/-- Every step leads from a sound state to a sound state: DRAM stays in its canonical form, every
queue, ring, buffer and cache within its size (R8, R81, R89, R93, R134), every setting within its range
(R15, R22), the clock within the week (R27), and the arbiter holds the third class back only within a LOCKED
sequence, or after one while an access of the first class waits (R12, R13, log 11). -/
def Obligations.StepKeepsSound : Prop := ∀ s t : State, s.Sound → step s = .next t → t.Sound

/-- With word-aligned cycles the Posted Write Queue and the waiting cycle hold word addresses only
(Conventions, R8), and the number of a call always has 24 nibbles (R144). -/
def Obligations.AddressesAndNumbersStayWhole : Prop :=
  ∀ s t : State, (∀ w ∈ s.path.queue, w.addr % 4 = 0) →
    (∀ w, s.path.waiting = some w → w.cycle.addr % 4 = 0) →
    (∀ l f, (s.line l).outgoing = some f → f.number.length = 24) →
    (∀ c, s.pending.head? = some c → c.wellFormed = true) → step s = .next t →
    (∀ w ∈ t.path.queue, w.addr % 4 = 0) ∧ (∀ w, t.path.waiting = some w → w.cycle.addr % 4 = 0) ∧
    ∀ l f, (t.line l).outgoing = some f → f.number.length = 24

/-- No step of the part's own, but STARTED and the tick of the clocks, changes a setting of the host, a
posted write, a clock, the command queue or the LOCKED sequence: those change by host cycles, a START
and pin reset alone. -/
def Obligations.OwnStepsChangeNoSetting : Prop :=
  ∀ (c : Instr) (s t : State), ofHost c = false → c ≠ .started → c ≠ .tenthTick → exec c s = .next t →
    t.settings = s.settings ∧ t.time = s.time ∧ t.pending = s.pending ∧
    t.path.sequence = s.path.sequence ∧ t.path.hold = s.path.hold

/-- The byte enables of a word write select the bytes that are changed, in memory (R4), where every other
byte is as it was and the canonical form is kept, and in a Raster Line that is composed (R7). That enable i
selects data bits 8i to 8i + 7 for the byte at the word's address plus i is the model's (log 10). -/
def Obligations.ByteEnablesSelectBytes : Prop :=
  (∀ (m : Memory) (a : Nat) (data : Word) (be : Enables), m.wf →
    (m.writeWord a data be).wf ∧
    (∀ i, i < 4 → (m.writeWord a data be).read (a + i)
      = if be.getLsbD i then Word.byte data i else m.read (a + i)) ∧
    ∀ x, x < a ∨ a + 4 ≤ x → (m.writeWord a data be).read x = m.read x) ∧
  ∀ (x : Raster) (b j : Nat) (data : Word) (be : Enables), b + 4 ≤ 224 → j < 224 →
    lineByte (setLineWord x b data be) j
      = if b ≤ j ∧ j < b + 4 ∧ be.getLsbD (j - b) = true then Word.byte data (j - b) else lineByte x j

/-! ### Host cycles: plain accesses (Sections 1.2 and 1.4) -/

/-- PLAIN_WRITE, POSTED_SLOT_TAKEN and POSTED_WRITE_DRAIN (R2, R4, R8, R13): a plain write is posted at once
while the queue holds fewer than eight entries and waits for a slot while it is full, until one has
drained; with no byte enable it ends with no effect. The oldest entry is performed in DRAM and leaves the
queue, but that a read which waits for its access and needs no entry drained goes first while the queue is
not full (Table 1.3). In PASS the region is plain memory, but for the START word. Nothing else changes. -/
def Obligations.PlainWritesArePosted : Prop :=
  (∀ (s : State) (addr : BitVec 26) (data : Word) (be : Enables) (program : Bool) (a : Attr),
    s.PortFree → a.locked = false → s.plainAt addr.toNat true →
    (be = 0 → exec (.plainWrite addr data be program a) s
      = .next { s with path := s.path.ended (.done none) }) ∧
    (be ≠ 0 → s.path.queue.length < 8 → exec (.plainWrite addr data be program a) s
      = .next { s with path := { s.path.ended (.done none) with
          queue := s.path.queue ++ [{ addr := addr.toNat, data := data, be := be }] } }) ∧
    (be ≠ 0 → 8 ≤ s.path.queue.length → exec (.plainWrite addr data be program a) s
      = .next { s with path := { s.path with
          waiting := some { cycle := { addr := addr.toNat, data := data, be := be, write := true,
                                       user := a.user, program := program, locked := false },
                            why := .slot }
          ending := none } })) ∧
  (∀ (s : State) (w : Posted) (rest : List Posted), s.path.queue = w :: rest →
    ((∀ c cls, s.path.waiting ≠ some { cycle := c, why := .access cls }) ∨ 7 ≤ rest.length ∨
      ∃ c cls, s.path.waiting = some { cycle := c, why := .access cls } ∧ (cls = .plain ∨ cls = .fetch) ∧
        ∃ x ∈ s.path.queue, x.addr = c.addr) →
    s.path.hold = false ∨ s.path.sequence = true →
    exec .postedWriteDrain s = .next { s with memory := s.memory.writeWord w.addr w.data w.be,
                                              path := { s.path with queue := rest } }) ∧
  (∀ (s : State) (c : Cycle) (cls : CycleClass), s.path.queue.length < 8 →
    s.path.waiting = some { cycle := c, why := .access cls } → (cls = .plain ∨ cls = .fetch) →
    c.write = false → c.locked = false → (∀ x ∈ s.path.queue, x.addr ≠ c.addr) →
    exec .postedWriteDrain s = .next s) ∧
  (∀ (s : State) (c : Cycle), s.path.waiting = some { cycle := c, why := .slot } →
    s.path.queue.length < 8 →
    exec .postedSlotTaken s = .next { s with path := { s.path.ended (.done none) with
      queue := s.path.queue ++ [{ addr := c.addr, data := c.data, be := c.be }] } }) ∧
  ∀ (s : State) (c : Cycle), s.path.waiting = some { cycle := c, why := .slot } →
    8 ≤ s.path.queue.length → exec .postedSlotTaken s = .next s

/-- PLAIN_READ and INSTRUCTION_FETCH (R3, R4, R9): the queue drains through the youngest match and no
further, and the word is returned as DRAM then holds it, which is the word with every earlier posted
write to it applied, word addresses being multiples of four. A fetch reads below the installed size
whatever Aperture or region its address lies in. -/
def Obligations.ReadsSeeEarlierWrites : Prop :=
  ((∀ (s : State) (addr : BitVec 26) (be : Enables) (a : Attr), s.PortFree → a.locked = false →
    a.stretched = false → s.plainAt addr.toNat false →
    readThroughYoungest s addr.toNat be (exec (.plainRead addr be a) s)) ∧
  ∀ (s : State) (addr : BitVec 26) (be : Enables) (a : Attr), s.PortFree → a.locked = false →
    a.stretched = false → addr.toNat < s.installed →
    readThroughYoungest s addr.toNat be (exec (.instructionFetch addr be a) s)) ∧
  ∀ (s : State) (addr : BitVec 26) (be : Enables) (a : Attr), s.PortFree → a.locked = false →
    a.stretched = false → s.memory.wf → addr.toNat % 4 = 0 → (∀ w ∈ s.path.queue, w.addr % 4 = 0) →
    be ≠ 0 →
    (s.plainAt addr.toNat false → ∃ t, exec (.plainRead addr be a) s = .next t ∧
      t.path.ending = some (.done (some ((s.memory.posted s.path.queue).readWord addr.toNat)))) ∧
    (addr.toNat < s.installed → ∃ t, exec (.instructionFetch addr be a) s = .next t ∧
      t.path.ending = some (.done (some ((s.memory.posted s.path.queue).readWord addr.toNat))))

/-- CYCLE_GRANTED (R11, R15): a stretched read of a plain word, an instruction, a region word or a DIGITS
Aperture, and a stretched write of a DIGITS Aperture or of a region word that no block acts on, changes
nothing while it waits, and its grant completes it as the unstretched cycle does. A stretched region write
that a block acts on is completed by its grant as well. -/
def Obligations.GrantCompletesStretchedCycle : Prop :=
  ∀ (s : State) (addr : BitVec 26) (data : Word) (be : Enables) (user program : Bool), s.PortFree →
    let attr := fun (stretched : Bool) => ({ user := user, locked := false, stretched := stretched } : Attr)
    let waits := fun (w : Waiting) => { s with path := { s.path with waiting := some w, ending := none } }
    let completes := fun (row : Attr → Instr) => ∃ (w : Waiting) (t : State),
      exec (row (attr true)) s = .next (waits w) ∧ exec .cycleGranted (waits w) = .next t ∧
      exec (row (attr false)) s = .next t
    let written := fun (a : Attr) => Instr.regionWrite addr data be program a
    (s.plainAt addr.toNat false → completes (.plainRead addr be)) ∧
    (addr.toNat < s.installed → completes (.instructionFetch addr be)) ∧
    (s.regionAt addr.toNat → completes (.regionRead addr be)) ∧
    (∀ e : Fin 8, s.Passes e .digits addr.toNat (attr false) →
      completes (.digitsRead addr be) ∧ completes (fun a => .digitsWrite addr data be program a)) ∧
    (s.regionAt addr.toNat →
      s.protectedWrite (writeCycle addr.toNat data be program (attr false)) = false →
      (be = 0 ∨ ¬ observedOffset (addr.toNat - s.regionBase) → completes written) ∧
      ∃ (w : Waiting) (t : State), exec (written (attr true)) s = .next (waits w) ∧
        exec .cycleGranted (waits w) = .next t ∧ t.path.waiting = none ∧
        t.path.ending = some (.done none))

/-! ### Bus errors (Section 1.8) -/

/-- HOLD_LIMIT_EXPIRY (R15, R16, R102): the waiting cycle ends NOT READY with no effect of its own; of a waiting
view read the target becomes none and the prefetch line the read's. Where an ended LOCKED sequence still holds the
third class back, the hold then ends as the next statements say. Where a Path Fault record is written, the unlisted
bits of its words are zero by the model's choice (log 82). -/
def Obligations.HoldLimitExpiryEndsNotReady : Prop :=
  (∀ (s : State) (w : Waiting), s.path.hold = false ∨ s.path.sequence = true →
    s.path.waiting = some w → (∀ e, w.why ≠ .view e) →
    busErrorEnds s w.cycle .notReady (exec .holdLimitExpiry s)) ∧
  ∀ (s : State) (c : Cycle) (e : Fin 8) (i : Fin 2) (v : ViewContext),
    s.path.hold = false ∨ s.path.sequence = true →
    s.path.waiting = some { cycle := c, why := .view e } → s.view i = some v → v.entry = e →
    (∀ j w, j < i → s.view j = some w → w.entry ≠ e) →
    busErrorEnds { s with engine := { s.engine with
        rv := s.engine.rv.set i (some { v with target := none, fetch := v.target }) } } c .notReady
      (exec .holdLimitExpiry s)

/-- Cycles that end with a bus error before they are carried out (R2, R3, R6, R16, R17): NO MEMORY at or above the
installed size where no Aperture takes the cycle; in an Aperture PROTECTED for a USER cycle that the entry does not
allow, then UNBOUND for a COMPOSE or RASTER entry with no binding. Where a Path Fault record is written, the
unlisted bits of its words are zero by the model's choice (log 82). -/
def Obligations.BusErrorsBeforeTheAccess : Prop :=
  (∀ (s : State) (addr : BitVec 26) (data : Word) (be : Enables) (a : Attr), s.PortFree →
    a.locked = false → s.installed ≤ addr.toNat →
    busErrorEnds s (readCycle addr.toNat be true a) .noMemory (exec (.instructionFetch addr be a) s) ∧
    ((∀ e : Fin 8, (s.aperture e).covers addr.toNat = false) →
      busErrorEnds s (readCycle addr.toNat be false a) .noMemory (exec (.plainRead addr be a) s) ∧
      ∀ program, busErrorEnds s (writeCycle addr.toNat data be program a) .noMemory
        (exec (.plainWrite addr data be program a) s))) ∧
  ∀ (s : State) (e : Fin 8) (addr : BitVec 26) (data : Word) (be : Enables) (a : Attr), s.PortFree →
    a.locked = false → s.governs e addr.toNat →
    (a.user = true → (s.aperture e).userAllowed = false →
      (∀ i ∈ [Instr.composeRead addr be a, .rasterRead addr be a, .digitsRead addr be a],
        busErrorEnds s (readCycle addr.toNat be false a) .protection (exec i s)) ∧
      ∀ program, ∀ i ∈ [Instr.composeWrite addr data be program a, .rasterWrite addr data be program a,
          .digitsWrite addr data be program a],
        busErrorEnds s (writeCycle addr.toNat data be program a) .protection (exec i s)) ∧
    ((a.user = true → (s.aperture e).userAllowed = true) → (s.aperture e).kind ≠ .digits →
      (s.aperture e).binding = none →
      (∀ i ∈ [Instr.composeRead addr be a, .rasterRead addr be a],
        busErrorEnds s (readCycle addr.toNat be false a) .unbound (exec i s)) ∧
      ∀ program, ∀ i ∈ [Instr.composeWrite addr data be program a, .rasterWrite addr data be program a],
        busErrorEnds s (writeCycle addr.toNat data be program a) .unbound (exec i s))

/-! ### LOCKED sequences (R12) -/

/-- A LOCKED plain write is performed before its cycle ends and is not posted, the queue drained first (R10
and R12 say so of the first LOCKED cycle; that each one drains is log 29, and later ones find the queue
empty). A LOCKED read or instruction fetch of the region makes the arbiter hold record writes back, and reads
what DRAM holds of bytes whose record writes are held back. A LOCKED cycle in an Aperture ends PROTECTED and
leaves the sequence open (R6). LOCKED_SEQUENCE_END releases the hold, and the records held back stand in DRAM
(R12). -/
def Obligations.LockedCyclesAreNotPosted : Prop :=
  (∀ (s : State) (addr : BitVec 26) (data : Word) (be : Enables) (program user : Bool),
    s.path.waiting = none → s.plainAt addr.toNat true →
    exec (.plainWrite addr data be program { user := user, locked := true, stretched := false }) s
      = .next { s with
          memory := (s.memory.posted s.path.queue).writeWord addr.toNat data be
          path := { s.path.drained (.done none) with sequence := true } }) ∧
  (∀ (s : State) (addr : BitVec 26) (be : Enables) (user : Bool),
    s.path.waiting = none → s.regionAt addr.toNat →
    let m := s.memory.posted s.path.queue
    let ends := fun (w : Word) => (.next { s with
      memory := m
      path := { s.path.drained (.done (some w)) with sequence := true, hold := true } } :
        Host.Outcome State Fault Refusal)
    let a : Attr := { user := user, locked := true, stretched := false }
    ∀ c ∈ [Instr.regionRead addr be a, .instructionFetch addr be a],
      (s.arbiter.hidden = [] → exec c s = ends (if be = 0 then 0 else m.readWord addr.toNat)) ∧
      (be ≠ 0 → ∃ w : Word, exec c s = ends w ∧ ∀ i, i < 4 →
        Word.byte w i = (s.arbiter.hiddenByte (addr.toNat + i)).getD (m.read (addr.toNat + i)))) ∧
  (∀ (s : State) (e : Fin 8) (addr : BitVec 26) (data : Word) (be : Enables)
      (program user stretched : Bool), s.path.waiting = none → s.governs e addr.toNat →
    let a : Attr := { user := user, locked := true, stretched := stretched }
    let drained := { s with memory := s.memory.posted s.path.queue,
                            path := { s.path with queue := [], sequence := true } }
    (∀ i ∈ [Instr.composeRead addr be a, .rasterRead addr be a, .digitsRead addr be a],
      busErrorEnds drained (readCycle addr.toNat be false a) .protection (exec i s)) ∧
    ∀ i ∈ [Instr.composeWrite addr data be program a, .rasterWrite addr data be program a,
        .digitsWrite addr data be program a],
      busErrorEnds drained (writeCycle addr.toNat data be program a) .protection (exec i s)) ∧
  ∀ s : State, s.path.waiting = none → s.path.sequence = true → s.path.hold = true →
    s.path.queue.length < 8 → (∀ x ∈ s.arbiter.held, ∃ u, x = .record u) →
    ∃ a : Arbiter, a.held = [] ∧ a.hidden = [] ∧
      (s.arbiter.held = [] → a = { s.arbiter with hidden := [] }) ∧
      exec .lockedSequenceEnd s = .next { s with
        path := { s.path with sequence := false, hold := false }, arbiter := a }

/-- What a LOCKED sequence that touched the region holds back (R12, R13, R26, R32; the form of it is the
model's, log 11): a block goes on with a record it writes, of which the host sees no byte, and with one it
reads; Coding Engine data and path accesses are seen at once; a notice keeps the Time of Day of its raising,
and a flag is not set. At the end of the sequence each transfer is performed as the arbiter grants it, unit by
unit in turn order, the Line Channels in their own, the oldest of each first (Table 1.3): a notice is entered
in the ring or lost, and a flag is set with its word. An unlocked region access that ends the sequence is
performed first, and one that is stretched holds the third class back until it is granted (log 11). -/
def Obligations.HeldTransfersArePerformedAtTheEnd : Prop :=
  (∀ (s : State) (u : Requester) (pieces : List (Nat × List Byte)), s.path.hold = true →
    let t := s.record u pieces
    t.memory = (s.pokes pieces).memory ∧ (∀ a, t.hostByte a = s.hostByte a) ∧
    t = { s with memory := t.memory
                 arbiter := { s.arbiter with held := s.arbiter.held ++ [.record u]
                                             hidden := t.arbiter.hidden } } ∧
    s.readRecord u = { s with arbiter := { s.arbiter with held := s.arbiter.held ++ [.record u] } }) ∧
  (∀ (s : State) (pieces : List (Nat × List Byte)), s.path.hold = true →
    let t := s.pokesNow pieces
    let within := fun (a : Nat) => ∃ p ∈ pieces, s.regionBase + p.1 ≤ a ∧
      a < s.regionBase + p.1 + p.2.length
    t.memory = (s.pokes pieces).memory ∧ t.arbiter.held = s.arbiter.held ∧
    ∀ a, (within a → t.hostByte a = t.memory.read a) ∧ (¬ within a → t.hostByte a = s.hostByte a)) ∧
  (∀ s : State, s.path.hold = true → s.path.state ≠ .pass →
    (∀ x : Notice, s.raise x = { s with
      free := s.free + 2
      arbiter := { s.arbiter with held := s.arbiter.held ++ [.notice (x.bytes s.timeOfDay s.free)] } }) ∧
    (∀ f : StatusFlag, s.setFlag f = { s with
      arbiter := { s.arbiter with held := s.arbiter.held ++ [.flags (some f)] } }) ∧
    (s.scan.state = .feeding → s.scan.feedSteps = 400 → ∃ t, exec .feedCountExpiry s = .next t ∧
      t.scan.state = .idle ∧ t.memory = s.memory ∧ t.request = s.request ∧
      ∃ bytes, t.arbiter.held = s.arbiter.held ++ [.notice bytes] ∧ bytes.take 2 = [6, 33])) ∧
  (∀ s : State, s.path.waiting = none → s.path.sequence = true → s.path.hold = true →
    s.path.queue.length < 8 →
    (∃ t, Performed s.holdEnded t ∧ exec .lockedSequenceEnd s = .next t) ∧
    let r := { s.holdEnded with arbiter := { s.arbiter with held := [], hidden := [] } }
    (∀ bytes, s.arbiter.held = [.notice bytes] →
      (s.request.unread < 128 →
        exec .lockedSequenceEnd s = .next (r.noticeEntry bytes).advanceProduce) ∧
      (128 ≤ s.request.unread → exec .lockedSequenceEnd s = .next (r.setFlag .noticeLost))) ∧
    ∀ f, s.arbiter.held = [.flags (some f)] → exec .lockedSequenceEnd s = .next (r.setFlag f)) ∧
  ∀ (s : State) (addr : BitVec 26) (data : Word) (be : Enables) (user program : Bool),
    s.path.waiting = none → s.path.sequence = true → s.path.hold = true → s.regionAt addr.toNat →
    let attr := fun (locked stretched : Bool) =>
      ({ user := user, locked := locked, stretched := stretched } : Attr)
    let lingers := { s with path := { s.path with
      sequence := false
      waiting := some { cycle := readCycle addr.toNat be false (attr false true), why := .access .region }
      ending := none } }
    let both := fun (row : Attr → Instr) => ∃ t u, exec (row (attr true false)) s = .next u ∧
      exec .lockedSequenceEnd u = .next t ∧ exec (row (attr false false)) s = .next t
    both (.regionRead addr be) ∧
    (¬ observedOffset (addr.toNat - s.regionBase) →
      s.protectedWrite (writeCycle addr.toNat data be program (attr false false)) = false →
      both (fun a => .regionWrite addr data be program a)) ∧
    exec (.regionRead addr be (attr false true)) s = .next lingers ∧
    exec .cycleGranted lingers = exec (.regionRead addr be (attr false false)) s ∧
    ∀ (u : Requester), lingers.canTakeRequest = false ∧
      (lingers.readRecord u).arbiter.held = s.arbiter.held ++ [.record u]

/-! ### The Controller Region (Sections 1.5, 2.2 and 2.3) -/

/-- REGION_READ and REGION_WRITE in STARTING and RUNNING (R11, R18): the whole queue drains, a read
returns the whole word (zero with no byte enable), and a SUPERVISOR write that the protection lets pass
changes the selected bytes; at an offset with no action nothing else changes. -/
def Obligations.RegionAccessDrainsTheQueue : Prop :=
  (∀ (s : State) (addr : BitVec 26) (be : Enables) (a : Attr), s.PortFree → a.locked = false →
    a.stretched = false → s.regionAt addr.toNat →
    exec (.regionRead addr be a) s = .next { s with
      memory := s.memory.posted s.path.queue
      path := s.path.drained (.done (some (if be = 0 then 0
        else (s.memory.posted s.path.queue).readWord addr.toNat))) }) ∧
  ∀ (s : State) (addr : BitVec 26) (data : Word) (be : Enables) (program : Bool) (a : Attr),
    s.PortFree → a.locked = false → a.stretched = false → s.regionAt addr.toNat →
    s.protectedWrite (writeCycle addr.toNat data be program a) = false →
    (be = 0 → exec (.regionWrite addr data be program a) s = .next { s with
      memory := s.memory.posted s.path.queue, path := s.path.drained (.done none) }) ∧
    (be ≠ 0 → ¬ observedOffset (addr.toNat - s.regionBase) →
      exec (.regionWrite addr data be program a) s
        = .next (s.wordWritten (addr.toNat - s.regionBase) data be))

/-- What the protection refuses (R18, R19, R20): every USER write; a SUPERVISOR write to a part-written
area, to a part-written word of the Config Block, to the entry or host half of a QUEUED job, and to the
entry of a bound Aperture. The queue drains, the write is not performed, and the cycle ends PROTECTED. Where a
Path Fault record is written, the unlisted bits of its words are zero by the model's choice (log 82). -/
def Obligations.ProtectedWritesAreRefused : Prop :=
  ∀ (s : State) (off : Nat) (addr : BitVec 26) (data : Word) (be : Enables) (program : Bool) (a : Attr),
    s.PortFree → a.locked = false → s.path.state ≠ .pass → addr.toNat = s.regionBase + off →
    off < 0x40000 →
    (a.user = true ∨ off ∈ [0x04, 0x14, 0x18, 0x44, 0x4C, 0x50, 0x54] ∨
      (0x00C00 ≤ off ∧ off < 0x01A00) ∨ (0x01F00 ≤ off ∧ off < 0x02000) ∨
      (0x03000 ≤ off ∧ off < 0x0F000) ∨ (0x0F200 ≤ off ∧ off < 0x0F400) ∨
      (0x10000 ≤ off ∧ off < 0x16000 ∧ 16 ≤ off % 32) ∨ (0x16000 ≤ off ∧ off < 0x1A000) ∨
      (∃ j, j < 16 ∧ (s.job j).state = .queued ∧
        ((0x0F000 + 32 * j ≤ off ∧ off < 0x0F000 + 32 * j + 32) ∨
          (0x10000 + 1536 * j ≤ off ∧ off < 0x10000 + 1536 * j + 1536))) ∨
      (∃ e : Fin 8, (s.aperture e).binding ≠ none ∧
        0x100 + 32 * e.val ≤ off ∧ off < 0x100 + 32 * e.val + 32)) →
    busErrorEnds { s with memory := s.memory.posted s.path.queue, path := { s.path with queue := [] } }
      (writeCycle addr.toNat data be program a) .protection
      (exec (.regionWrite addr data be program a) s)

/-- The settings of the Config Block that are clamped, taken and written back (R15, R22, R35, R51):
HOLD_LIMIT_WRITE, POOR_THRESHOLD_WRITE, AUTO_PRINT_WRITE, INCOMING_RESERVE_WRITE, INTERRUPT_ENABLE_WRITE
and RECEIVE_RESERVE_WRITE. Each acts on the whole word as it stands after the write (R21). A new Receive
Reserve has the low condition evaluated: STORE LOW is raised when it begins, and a scan that waits for
store returns to the state it left when it ends. The Notice Interrupt output is active just while the enable
word is set and a notice is unread (R35). That the Poor Threshold is written back in the turn of LC0 is the
model's choice (log 50), and so is that the Hold Limit is written back as a path access (log 58). -/
def Obligations.SettingsAreClampedAndWrittenBack : Prop :=
  (∀ s : State, (s.noticeInterrupt = true ↔
      s.request.interruptEnable = true ∧ s.request.produce ≠ s.request.consume) ∧
    ∀ x : Notice, s.path.hold = false → s.path.state ≠ .pass → s.request.unread < 128 →
      (s.raise x).noticeInterrupt = s.request.interruptEnable) ∧
  (∀ (s : State) (data : Word) (be : Enables) (program : Bool) (a : Attr), s.Accepts be a →
    (let w := s.wordWritten 0x20 data be
     let v := max 1 (min (w.config 0x20).toNat 255)
     exec (.holdLimitWrite data be program a) s = .next { w with
       memory := w.memory.write (w.regionBase + 0x20) (leBytes 4 v)
       path := { w.path with holdLimit := v } }) ∧
    (let w := s.wordWritten 0x28 data be
     let v := min (w.config 0x28).toNat 255
     exec (.poorThresholdWrite data be program a) s
       = .next ({ w with poorThreshold := v }.unitWrote (.lineChannel 0) 0x28 v)) ∧
    (let w := s.wordWritten 0x2C data be
     let on := w.config 0x2C != 0
     exec (.autoPrintWrite data be program a) s
       = .next ({ w with print := { w.print with autoPrint := on } }.unitWrote .printUnit 0x2C
           (if on then 1 else 0))) ∧
    (let w := s.wordWritten 0x30 data be
     let v := min (w.config 0x30).toNat 3
     exec (.incomingReserveWrite data be program a) s
       = .next ({ w with dispatcher := { w.dispatcher with incomingReserve := v } }.unitWrote
           .dispatcher 0x30 v)) ∧
    (let w := s.wordWritten 0x0C data be
     let on := w.config 0x0C != 0
     exec (.interruptEnableWrite data be program a) s
       = .next ({ w with request := { w.request with interruptEnable := on } }.unitWrote .requestUnit
           0x0C (if on then 1 else 0)))) ∧
  ∀ (s : State) (data : Word) (be : Enables) (program : Bool) (a : Attr), s.Accepts be a →
    let w := s.wordWritten 0x24 data be
    let v := min (w.config 0x24).toNat 255
    let low := decide (w.store.depth ≤ v)
    let t := { w with store := { w.store with receiveReserve := v, low := low } }.unitWrote .storeUnit
      0x24 v
    (s.store.low = low → exec (.receiveReserveWrite data be program a) s = .next t) ∧
    (s.store.low = false → low = true → exec (.receiveReserveWrite data be program a) s
      = .next (t.raise { kind := .storeLow, subject := [0xFF, 0xFF], value1 := some w.store.depth,
                         value2 := some v })) ∧
    (s.store.low = true → low = false → exec (.receiveReserveWrite data be program a) s
      = .next { t with scan := { t.scan with state := match t.scan.state with
          | .storeWait true => .closing
          | .storeWait false => .reading
          | x => x } })

/-- STATUS_FLAGS_WRITE, POST_INDEX_WRITE, CLOCK_SET_TENTHS_WRITE and PATH_FAULT_CAUSE_WRITE (R17, R26, R28, R29):
each flag that the word holds as zero is cleared, the others stay as they are held, and the held flags are written
back; at most 64 entries are exposed, beyond which the post index is clamped to take + 64, REQUEST OVERRUN is set
and both words are written; the weekday word and the tenths word are taken, clamped to 6 and 863999, and written
back, the Run Clock not changed; a cause word that reads zero empties the Path Fault record and the whole field, and
any other value is written over with the cause held, or zero. That the clock-set words are written back as two
transfers of the Request Unit, the weekday first, is the model's choice (log 49), and so is zero in the unlisted
bits of the flags, index and cause words that are written (log 82). -/
def Obligations.ConfigWordsAreActedOn : Prop :=
  ∀ (s : State) (data : Word) (be : Enables) (program : Bool) (a : Attr), s.Accepts be a →
    (let w := s.wordWritten 0x08 data be
     let v := w.config 0x08
     let r := { w.request with
       startFault := w.request.startFault && v.getLsbD 0
       requestOverrun := w.request.requestOverrun && v.getLsbD 1
       noticeLost := w.request.noticeLost && v.getLsbD 2 }
     exec (.statusFlagsWrite data be program a) s
       = .next ({ w with request := r }.unitWrote .requestUnit 0x08
           (flagValue r.startFault + 2 * flagValue r.requestOverrun + 4 * flagValue r.noticeLost))) ∧
    (let w := s.wordWritten 0x10 data be
     let v : Index := (w.config 0x10).setWidth 16
     let r := { w.request with post := s.request.take + 64, requestOverrun := true }
     ((v - s.request.take).toNat ≤ 64 → exec (.postIndexWrite data be program a) s
       = .next { w with request := { w.request with post := v } }) ∧
     (64 < (v - s.request.take).toNat → exec (.postIndexWrite data be program a) s
       = .next (({ w with request := r }.unitWrote .requestUnit 0x08 r.flagsWord).unitWrote .requestUnit
           0x10 (s.request.take + 64).toNat))) ∧
    (let w := s.wordWritten 0x38 data be
     let weekday := min (w.config 0x34).toNat 6
     let tenths := min (w.config 0x38).toNat 863999
     exec (.clockSetTenthsWrite data be program a) s
       = .next (({ w with time := { w.time with weekday := weekday, tenths := tenths } }.unitWrote
           .requestUnit 0x34 weekday).unitWrote .requestUnit 0x38 tenths)) ∧
    let w := s.wordWritten 0x48 data be
    (w.config 0x48 = 0 → exec (.pathFaultCauseWrite data be program a) s = .next { w with
      memory := w.memory.write (w.regionBase + 0x48) (List.replicate 16 0)
      path := { w.path with fault := none } }) ∧
    (w.config 0x48 ≠ 0 → s.path.fault = none → exec (.pathFaultCauseWrite data be program a) s
      = .next { w with memory := (w.memory.write (w.regionBase + 0x48) [0, 0, 0, 0]) }) ∧
    ∀ f, w.config 0x48 ≠ 0 → s.path.fault = some f → exec (.pathFaultCauseWrite data be program a) s
      = .next { w with memory := (w.memory.write (w.regionBase + 0x48)
          [BitVec.ofNat 8 f.cause.code, if f.more then 1 else 0, 0, 0]) }

/-- NOTICE_CONSUME_INDEX_WRITE (R34): the copy takes a value that lies between the consume and the
produce index, becomes the produce index otherwise, which is then written into the word, and is 0 after pin reset
and after a taken START. That bits 16 to 31 of the word so written are zero is the model's choice (log 82). -/
def Obligations.ConsumeIndexTakesWhatWasWritten : Prop :=
  (∀ (s : State) (data : Word) (be : Enables) (program : Bool) (a : Attr), s.Accepts be a →
    let w := s.wordWritten 0x1C data be
    let v : Index := (w.config 0x1C).setWidth 16
    ((v.toNat + 65536 - s.request.consume.toNat) % 65536
        ≤ (s.request.produce.toNat + 65536 - s.request.consume.toNat) % 65536 →
      exec (.noticeConsumeIndexWrite data be program a) s
        = .next { w with request := { w.request with consume := v } }) ∧
    ((s.request.produce.toNat + 65536 - s.request.consume.toNat) % 65536
        < (v.toNat + 65536 - s.request.consume.toNat) % 65536 →
      exec (.noticeConsumeIndexWrite data be program a) s
        = .next ({ w with request := { w.request with consume := s.request.produce } }.unitWrote
            .requestUnit 0x1C s.request.produce.toNat))) ∧
  State.reset.request.consume = 0 ∧
  (∀ (size : DramSize) (s t : State), exec (.pinReset size) s = .next t → t.request.consume = 0) ∧
  ∀ (program : Bool) (a : Attr) (s t : State),
    exec (.startFresh program a) s = .next t ∨ exec (.startKeep program a) s = .next t →
    s.path.state ≠ .starting → t.path.state = .starting → t.request.consume = 0

/-- APERTURE_ENTRY_WRITE (R5): a write to an unbound entry replaces its copy by the fields as memory
holds them, valid only when they meet every condition, and changes nothing else. -/
def Obligations.ApertureCopyFollowsMemory : Prop :=
  ∀ (s : State) (e word : Fin 8) (data : Word) (be : Enables) (program : Bool) (a : Attr),
    s.Accepts be a → (s.aperture e).binding = none →
    let w := s.wordWritten (0x100 + 32 * e.val + 4 * word.val) data be
    let off := 0x100 + 32 * e.val
    let kind := w.valueAt (off + 1) 1
    let base := w.valueAt (off + 4) 4
    let length := w.valueAt (off + 8) 4
    let stride := w.valueAt (off + 0x0C) 2
    let origin := w.valueAt (off + 0x0E) 2
    let target := w.valueAt (off + 0x10) 4
    ∃ x : Aperture,
      exec (.apertureEntryWrite e word data be program a) s
        = .next { w with path := { w.path with copy := w.path.copy.set e x } } ∧
      x.binding = none ∧ x.base = base ∧ x.length = length ∧ x.stride = stride ∧ x.origin = origin ∧
      x.target = target ∧ (x.userAllowed = true ↔ w.valueAt (off + 2) 1 ≠ 0) ∧
      (kind = 0 → x.kind = .compose) ∧ (kind = 1 → x.kind = .raster) ∧ (kind = 2 → x.kind = .digits) ∧
      (x.valid = true ↔ w.valueAt off 1 ≠ 0 ∧ kind ≤ 2 ∧ base % 4096 = 0 ∧ length % 4096 = 0 ∧
        4096 ≤ length ∧ length ≤ 1048576 ∧ base + length ≤ 67108864 ∧
        (kind ≤ 1 → (stride = 224 ∨ stride = 256) ∧ origin ≤ 2559) ∧
        (kind = 2 → target + length / 2 ≤ w.regionBase))

/-- LINE_CONFIG_WRITE (R13, R105, R106): the line's held configuration is replaced by the fields as memory
holds them, values out of range taken as the rule says; a call in progress keeps its own. That the entry read
back passes the turns of the arbiter on is the model's (log 11). -/
def Obligations.LineConfigIsReloaded : Prop :=
  ∀ (s : State) (l : LineNo) (word : Fin 16) (data : Word) (be : Enables) (program : Bool) (a : Attr),
    s.Accepts be a →
    let off := 0x200 + 64 * l.val
    let w := s.wordWritten (off + 4 * word.val) data be
    ∃ x : LineConfig,
      exec (.lineConfigWrite l word data be program a) s
        = .next { w with lines := w.lines.set l { w.line l with held := x }
                         arbiter := w.arbiter.granted (.lineChannel l) } ∧
      (w.valueAt off 1 = 1 → x.direction = .outgoing) ∧ (w.valueAt off 1 = 2 → x.direction = .both) ∧
      (w.valueAt off 1 ≠ 1 → w.valueAt off 1 ≠ 2 → x.direction = .incoming) ∧
      (x.pulse = true ↔ w.valueAt (off + 1) 1 = 1) ∧ (x.blind = true ↔ w.valueAt (off + 2) 1 = 1) ∧
      x.answerRings = min (w.valueAt (off + 3) 1) 9 ∧
      (w.valueAt (off + 4) 1 = 0 → x.answerSeconds = 45) ∧
      (w.valueAt (off + 4) 1 ≠ 0 → x.answerSeconds = max 20 (min (w.valueAt (off + 4) 1) 90)) ∧
      (x.reversalSupervision = true ↔ w.valueAt (off + 5) 1 = 1) ∧
      (x.chargePulses = true ↔ w.valueAt (off + 6) 1 = 1) ∧
      x.dialPrefix = (nibbles (w.bytesAt (off + 0x10) 4)).takeWhile (fun n => decide (n.toNat < 14)) ∧
      x.pulsePrice = (nibbles (w.bytesAt (off + 8) 2)).foldl (fun v d => 10 * v + min d.toNat 9) 0

/-! ### START, pin reset and the clocks (Chapter 2, R1, R53 to R57) -/

/-- START_FRESH and START_KEEP taken (R1, R5, R22 to R25, R27, R71): the part is STARTING, START FAULT is
clear, the take, post and consume indices are 0, and so is the produce index where the work raises no notice,
as in START FRESH out of PASS with more Leaves than the Receive Reserve; every binding is removed, the Leaf
Area is latched, every Coding Context is FREE and the Run Clock is 0; the settings, the Path Fault record and
the Time of Day stay. At a restart every call, scan and copy has ended. -/
def Obligations.StartIsTaken : Prop :=
  ∀ (s w : State) (keep program : Bool) (a : Attr), StartWrite s keep a w →
    ∃ t, exec (startCommand keep program a) s = .next t ∧ t.path.state = .starting ∧
      t.path.queue = [] ∧ t.path.waiting = none ∧ t.path.ending = some (.done none) ∧
      t.path.fault = s.path.fault ∧ t.path.holdLimit = s.path.holdLimit ∧ t.path.size = s.path.size ∧
      t.request.take = 0 ∧ t.request.post = 0 ∧ t.request.consume = 0 ∧ t.request.startFault = false ∧
      (keep = false → s.path.state = .pass → s.store.receiveReserve < w.valueAt 0x40 4 →
        t.request.produce = 0) ∧
      t.request.executing = none ∧ t.request.requestOverrun = s.request.requestOverrun ∧
      t.request.interruptEnable = s.request.interruptEnable ∧
      t.store.leafBase = w.valueAt 0x3C 4 ∧ t.store.leafCount = w.valueAt 0x40 4 ∧
      t.store.taking = false ∧ t.store.receiveReserve = s.store.receiveReserve ∧
      t.poorThreshold = s.poorThreshold ∧ t.print.autoPrint = s.print.autoPrint ∧
      t.dispatcher.incomingReserve = s.dispatcher.incomingReserve ∧
      t.time = { s.time with runClock := 0 } ∧ t.charge.sequence = 0 ∧
      (∀ e, (t.aperture e).binding = none) ∧ t.engine.sc = none ∧ t.engine.pr = none ∧
      (∀ i, t.compose i = none ∧ t.view i = none) ∧ (∀ l, t.lnContext l = none) ∧
      (s.path.state = .running → t.scan.state = .idle ∧ t.print.state = .idle ∧
        ∀ l, (t.line l).state = .idle ∧ (t.line l).offHook = false ∧ (t.line l).call = none ∧
          (t.line l).timer = none)

/-- START_FRESH (R54, R155, R172, R181): every Page Record is FREE with no Reference, every Leaf is on the
Free Leaf Stack with Leaf 0 on top, every job and print slot is EMPTY, and every desk has no total and
no cap. -/
def Obligations.StartFreshEmptiesTheTables : Prop :=
  ∀ (s w : State) (program : Bool) (a : Attr), StartWrite s false a w →
    ∃ t, exec (.startFresh program a) s = .next t ∧ t.store.depth = w.valueAt 0x40 4 ∧
      t.valueAt 0x44 4 = w.valueAt 0x40 4 ∧
      (∀ n, n < w.valueAt 0x40 4 → t.valueAt (0x0D000 + 2 * n) 2 = w.valueAt 0x40 4 - 1 - n) ∧
      (∀ p, p < 128 → t.pageState p = .free ∧ t.references p = 0) ∧
      (∀ j, j < 16 → (t.job j).state = .empty) ∧
      (∀ n, n < 32 → (t.slot n).state = some .empty) ∧
      ∀ d, d < 32 → t.deskTotal d = 0 ∧ t.deskCap d = 0 ∧ t.desk d = { capped := false, markup := 0 }

/-- START_KEEP (R39, R55 to R57, R156, R172, R181): every Page Record is SEALED or FREE, and the depth of the Free
Leaf Stack plus the Leaf counts of the SEALED ones equals the leaf count latched. Out of PASS, where no call, scan
or copy has to end first: a QUEUED job that lists no discarded page stays QUEUED while it has a destination to dial,
its destinations due at once, and one that lists a page which the rebuild discards (a record that is not FREE before
and is FREE after: FILLING, DROPPED, in a state without a name, or SEALED with a chain that fails) becomes DONE with
the destinations it has left CANCELLED; the submit list ascends in submit number; a desk keeps its figures and is
CAPPED just when its total reaches a cap; a print item of a kept page is WAITING, and a slot out of range is EMPTY;
and the References of a kept page are its owner, listings and items. These are the model's choice: that an item
keeps its cancel mark (log 75), that the other fields of a slot made EMPTY are zero (log 92), that a job has its
first 48 destinations and 32 listings where its counts are above them (log 79), that a recomputed count above 255 is
held in full (log 60), and that a destination whose state names none of Table 9.3 counts among the cancelled in a
job that is not QUEUED (log 65). -/
def Obligations.StartKeepAccountsForEveryLeaf : Prop :=
  ∀ (s w : State) (program : Bool) (a : Attr), StartWrite s true a w →
    ∃ t, exec (.startKeep program a) s = .next t ∧
      (∀ p, p < 128 → t.pageState p = .sealed ∨ t.pageState p = .free) ∧
      t.store.depth + ((List.range 128).map (fun p =>
        if t.pageState p = .sealed then t.leavesOf p else 0)).sum = t.store.leafCount ∧
      (s.path.state = .pass →
        (∀ j, j < 16 →
          let x := w.job j
          let pages := w.jobPages j
          let used := fun (d : Nat) => d < w.jobDestinations j ∧ d < 48
          let due := fun (d : Nat) => (w.destination j d).state = .pending ∨
            ((w.destination j d).state = .calling ∧ x.cancelling = false)
          let lost := ∃ p ∈ pages, w.valueAt (0x3000 + 256 * p) 1 ≠ 0 ∧ t.pageState p = .free
          (x.state ≠ .queued → (t.job j).state = x.state) ∧
          (x.state = .queued → ¬ lost → (∃ d, used d ∧ due d) → (t.job j).state = .queued) ∧
          (x.state = .queued → lost ∨ (∀ d, used d → ¬ due d) → (t.job j).state = .done) ∧
          (t.job j).cancelling = x.cancelling ∧ (t.job j).number = x.number ∧
          (t.job j).sent = t.countIn j [.sent] ∧ (t.job j).cancelled = t.countIn j [.cancelled] ∧
          (t.job j).failed = t.countIn j [.failed, .barred, .invalid] ∧
          ∀ d, used d → x.state = .queued →
            let y := w.destination j d
            (due d → ¬ lost → t.destination j d
              = { y with state := .pending, nextTry := 0
                         line := if y.state = .calling then 255 else y.line }) ∧
            (due d → lost → (t.destination j d).state = .cancelled) ∧
            (y.state = .calling → x.cancelling = true →
              t.destination j d = { y with state := .cancelled, line := 255 }) ∧
            (y.state ≠ .pending → y.state ≠ .calling → t.destination j d = y)) ∧
        (∀ j, j ∈ t.dispatcher.submitList ↔ j < 16 ∧ (t.job j).state = .queued) ∧
        t.dispatcher.submitList.Pairwise (fun j k => (t.job j).number ≤ (t.job k).number) ∧
        (∀ d, d < 32 →
          let capped := w.deskCap d ≠ 0 ∧ w.deskCap d ≤ w.deskTotal d
          t.deskTotal d = w.deskTotal d ∧ t.deskCap d = w.deskCap d ∧ t.deskCalls d = w.deskCalls d ∧
          t.deskPages d = w.deskPages d ∧ ((t.desk d).capped = true ↔ capped) ∧
          (t.desk d).markup = min (w.valueAt (0x1400 + 32 * d + 8) 2) 999 ∧
          t.valueAt (0x1400 + 32 * d + 8) 2 = (t.desk d).markup ∧
          t.valueAt (0x1400 + 32 * d + 10) 1 = if (t.desk d).capped then 1 else 0) ∧
        (∀ n, n < 32 →
          let x := w.slot n
          let good := 1 ≤ x.copies ∧ x.copies ≤ 99 ∧ x.copiesDone < x.copies ∧ x.page ≤ 127 ∧
            w.pageState x.page = .sealed ∧ t.pageState x.page = .sealed
          ((x.state = some .waiting ∨ x.state = some .printing) → good →
            t.slot n = { x with state := some .waiting }) ∧
          (x.state ≠ some .empty → ¬ (x.state ≠ none ∧ good) → t.slot n = Slot.cleared) ∧
          (x.state = some .empty → t.slot n = x)) ∧
        ∀ p, p < 128 → t.pageState p = .sealed →
          1 ≤ t.references p ∧ t.references p = (if t.pageOwned p then 1 else 0)
            + ((List.range 16).map (fun j =>
                if (t.job j).state = .queued then (t.jobPages j).count p else 0)).sum
            + (List.range 32).countP (fun n => (t.slot n).state == some .waiting && (t.slot n).page == p))

/-- A START that breaks a condition of R23 is not taken, in any path state: START FAULT is set and the status flags
word is written, and nothing else changes but the word written. That its bits 3 to 31 are then zero is the model's
choice (log 82). -/
def Obligations.StartIsRefused : Prop :=
  ∀ (s : State) (keep program : Bool) (a : Attr), s.PortFree → a.user = false → a.locked = false →
    a.stretched = false →
    let w := s.wordWritten 0x00 (if keep then 2 else 1) 0xF
    (s.path.state = .starting ∨ w.valueAt 0x3C 4 % 4096 ≠ 0 ∨ w.valueAt 0x40 4 = 0 ∨
      4096 < w.valueAt 0x40 4 ∨ s.regionBase < w.valueAt 0x3C 4 + 4096 * w.valueAt 0x40 4) →
    let r := { w.request with startFault := true }
    exec (startCommand keep program a) s
      = .next ({ w with request := r }.unitWrote .requestUnit 0x08 r.flagsWord)

/-- STARTED (R1, R25, R181): STARTED is raised with the counts kept, the part becomes RUNNING, the state word says
so and requests are taken; with paper absent the Print Unit enters PAPER WAIT and raises PAPER OUT, with paper
present it begins a copy of the item at the head of the queue, and where no item is WAITING nothing more happens.
That the unit's reads of its queue pass no turn of the arbiter is the model's choice (log 93). -/
def Obligations.StartedRuns : Prop :=
  ∀ s : State, s.path.state = .starting → s.path.hold = false →
    let r := s.request
    let u := s.raise { kind := .started, subject := [0xFF, 0xFF],
                       value1 := some (r.pagesKept + 65536 * r.pagesDiscarded),
                       value2 := some (r.jobsKept + 65536 * r.jobsCancelled) }
    let v := { u with memory := u.memory.write (s.regionBase + 0x04) [2, 0, 0, 0],
                      path := { u.path with state := .running },
                      store := { u.store with taking := true } }
    (∃ t, exec .started s = .next t ∧ t.path.state = .running ∧ t.store.taking = true) ∧
    (s.print.paper = true → s.waitingSlots = [] → exec .started s = .next v) ∧
    (∀ n, s.print.paper = true → s.print.state = .idle → s.HeadIs n →
      s.pageState (s.slot n).page ≠ .dropped → ∃ t, exec .started s = .next t ∧ CopyBegun s t n ∧
        t.request = v.request) ∧
    (s.print.paper = false → exec .started s
      = .next ({ v with print := { v.print with state := .paperWait } }.raise
          { kind := .paperOut, subject := [0xFF, 0xFF], value1 := some 0xFFFFFFFF }))

/-- PIN_RESET and what it leaves (R1, R5, R8, R15, R17, R22, R26, R27, R29, R32, R34, R35, R71, R75, R110, R147,
R159): the part returns to PASS with the straps as given and every unit at its reset state; DRAM and the PAPER
level are as they were. That PAPER keeps its level, and that DRAM is left without the writes that a LOCKED
sequence held back, is the model's choice (log 15). Where the spec gives no reset value, as for the take index,
the scan settings, the shift chains, the motor and paper steps and the START counts, the value is the model's
(log 7). The fields left open here are those that pin reset leaves undefined (R36, R38, R53, R171, R181;
log 8). -/
def Obligations.PinResetValues : Prop :=
  (State.reset.path.state = .pass ∧ State.reset.path.queue = [] ∧ State.reset.path.holdLimit = 64 ∧
  State.reset.path.fault = none ∧
  (∀ e, (State.reset.aperture e).valid = false ∧ (State.reset.aperture e).binding = none) ∧
  State.reset.request.post = 0 ∧ State.reset.request.produce = 0 ∧ State.reset.request.consume = 0 ∧
  State.reset.request.flagsWord = 0 ∧ State.reset.request.interruptEnable = false ∧
  State.reset.time = { runClock := 0, weekday := 0, tenths := 0 } ∧
  State.reset.store.receiveReserve = 32 ∧ State.reset.poorThreshold = 32 ∧
  State.reset.print.autoPrint = false ∧ State.reset.dispatcher.incomingReserve = 0 ∧
  State.reset.engine.sc = none ∧ State.reset.engine.pr = none ∧
  (∀ i, State.reset.compose i = none ∧ State.reset.view i = none) ∧
  (∀ l, State.reset.lnContext l = none ∧ (State.reset.line l).state = .idle ∧
    (State.reset.line l).offHook = false ∧ (State.reset.meterOf l).active = false) ∧
  State.reset.scan.state = .idle ∧ State.reset.print.state = .idle ∧
  State.reset.dispatcher.submitList = [] ∧ State.reset.dispatcher.lookPending = false) ∧
  ∀ (s : State) (size : DramSize), ∃ t, exec (.pinReset size) s = .next t ∧
    t = { State.reset with
      memory := t.memory
      path := { State.reset.path with size := size }
      store := { State.reset.store with depth := t.store.depth, leafBase := t.store.leafBase,
                                        leafCount := t.store.leafCount,
                                        references := t.store.references }
      dispatcher := { State.reset.dispatcher with submitCount := t.dispatcher.submitCount }
      charge := { State.reset.charge with desks := t.charge.desks }
      print := { State.reset.print with entryCount := t.print.entryCount, paper := s.print.paper }
      free := t.free
      pending := s.pending } ∧
    (s.path.hold = false → t.memory = s.memory) ∧
    (s.arbiter.hidden.Pairwise (fun x y => x.1 ≠ y.1) → ∀ a, t.memory.read a = s.hostByte a)

/-- TENTH_TICK (R27, R147): both clocks advance by a tenth, the day and the week roll over, the Run Clock
wraps, and each full second brings a look while the part is RUNNING. -/
def Obligations.TenthTickAdvancesTheClocks : Prop :=
  ∀ s : State, s.time.weekday ≤ 6 → s.time.tenths ≤ 863999 →
    exec .tenthTick s = .next { s with
      time := { runClock := s.time.runClock + 1
                weekday := if s.time.tenths = 863999 then (s.time.weekday + 1) % 7 else s.time.weekday
                tenths := (s.time.tenths + 1) % 864000 }
      dispatcher := { s.dispatcher with lookPending := s.dispatcher.lookPending ||
        (s.isRunning && (s.time.runClock + 1).toNat % 10 == 0) } }

/-! ### Composing (Section 5.3) -/

/-- COMPOSE_WRITE, COMPOSE_WRITE_RESUME and COMPOSE_READ in a bound entry (R7, R88, R89): the cases of a
write by its line, the wait for a closed-line slot and its end, and a read that returns zero. `drawn` is
the line with the selected bytes replaced. -/
def Obligations.ComposeWriteCases : Prop :=
  ∀ (s : State) (e : Fin 8) (b : Binding) (x : ComposeContext) (addr : BitVec 26) (be : Enables) (a : Attr),
    s.Passes e .compose addr.toNat a → (s.aperture e).binding = some b → s.compose b.ctx = some x →
    let off := addr.toNat - (s.aperture e).base
    let line := (s.aperture e).origin + off / (s.aperture e).stride
    let byte := off % (s.aperture e).stride
    let ended := fun (y : ComposeContext) =>
      { s with engine := { s.engine with cp := s.engine.cp.set b.ctx (some y) }
               path := s.path.ended (.done none) }
    (s.PortFree → exec (.composeRead addr be a) s
      = .next { s with path := s.path.ended (.done (some 0)) }) ∧
    ∀ (data : Word) (program : Bool),
      let drawn := fun (r : Raster) => setLineWord r byte data be
      let c := Instr.composeWrite addr data be program a
      let higher := fun (at_ : Nat) (r : Raster) =>
        ended { x with queue := x.queue ++ [{ index := at_, pixels := r, lead := x.lead }]
                       closedThrough := some at_
                       lead := line - at_ - 1
                       current := some (line, drawn Raster.white) }
      (s.PortFree → (x.window ≠ .opened ∨ be = 0 ∨ 224 ≤ byte ∨ 2560 ≤ line) →
        exec c s = .next { s with path := s.path.ended (.done none) }) ∧
      (x.window = .opened → be ≠ 0 → byte < 224 → line < 2560 →
        (∀ r, s.PortFree → x.current = some (line, r) →
          exec c s = .next (ended { x with current := some (line, drawn r) })) ∧
        (∀ at_ r, s.PortFree → x.current = some (at_, r) → at_ < line → x.queue.length < 2 →
          exec c s = .next (higher at_ r)) ∧
        (∀ at_ r, s.PortFree → x.current = some (at_, r) → at_ < line → 2 ≤ x.queue.length →
          exec c s = .next { s with path := { s.path with
            waiting := some { cycle := writeCycle addr.toNat data be program a, why := .composeSlot e }
            ending := none } }) ∧
        (∀ at_ r, s.path.waiting
              = some { cycle := writeCycle addr.toNat data be program a, why := .composeSlot e } →
          x.current = some (at_, r) → at_ < line → x.queue.length < 2 →
          exec .composeWriteResume s = .next (higher at_ r)) ∧
        (∀ at_ r, s.PortFree → x.current = some (at_, r) → line < at_ →
          exec c s = .next (ended { x with disorder := true })) ∧
        (s.PortFree → x.current = none → x.closedThrough = none →
          exec c s = .next (ended { x with lead := x.lead + line
                                           current := some (line, drawn Raster.white) })) ∧
        (∀ k, s.PortFree → x.current = none → x.closedThrough = some k → k < line →
          exec c s = .next (ended { x with lead := x.lead + (line - k - 1)
                                           current := some (line, drawn Raster.white) })) ∧
        ∀ k, s.PortFree → x.current = none → x.closedThrough = some k → line ≤ k →
          exec c s = .next (ended { x with disorder := true }))

/-- The Coding Engine's choice, CP_GRANT and SC_GRANT (Sections 3.4, 4.5, 4.6, 5.1 and 5.3; R41, R43, R62, R73
to R75, R83, R84, R89, R90): the engine grants the READY context of the lowest class of Table 4.5, the
contexts of a class in turn. With room in the page's last Leaf, or with a Leaf that the Store Unit grants, the
context granted codes its next line and commits it. A compose context codes a white lead line while the line
in front has lead left, and then that line; SC codes the oldest line of the ring, and the last line of a sheet
that is done seals its page, where the Leaves that the line can reach lie below the Controller Region, as a
START lets the Leaf Area lie (R23, R36). Where the Store Unit refuses a Leaf, a compose page is truncated, its
lines discarded and a write that waits for a slot ended, and a scan waits 30.0 s for store. -/
def Obligations.GrantsCommitOneLine : Prop :=
  ((∀ (s : State) (k : Fin 7) (c : Ctx), s.GrantedNext k c → s.engineChoice = some (k, c)) ∧
    ∀ s : State, (∀ k c, ¬ s.standsIn k c) → s.engineChoice = none ∧
      ∀ i ∈ [Instr.scGrant true, .scGrant false, .cpGrant, .rvGrant, .prGrant, .lnSendGrant, .lnReceiveGrant],
        exec i s = .next s) ∧
  (∀ (s : State) (k : Fin 7) (i : Fin 2) (c : ComposeContext), s.path.hold = false →
    s.engineChoice = some (k, .cp i) → s.compose i = some c →
    ∀ (x : Raster) (after : ComposeContext),
      ((∃ q rest, c.queue = q :: rest ∧ 0 < q.lead ∧ x = 0 ∧
          after = { c with queue := { q with lead := q.lead - 1 } :: rest }) ∨
        (∃ q rest, c.queue = q :: rest ∧ q.lead = 0 ∧ x = q.pixels ∧ after = { c with queue := rest }) ∨
        (c.queue = [] ∧ x = 0 ∧ after = { c with lead := c.lead - 1 })) →
      let p := c.enc.page
      s.commits p (c.enc.code x).bits (if c.disorder then [(3, 1)] else []) (fun w m =>
        (c.disorder = true → { s with memory := m }.pageFlags p = s.pageFlags p ||| 0x04) ∧
        exec .cpGrant s = .next { w with
          memory := m
          engine := { s.engine with
            cp := s.engine.cp.set i (some { after with
              disorder := false
              enc := { c.enc with
                next := c.enc.next + 1
                position := c.enc.position + (c.enc.code x).bits.length
                reference := x
                nonDirect := if (c.enc.code x).direct then 0 else c.enc.nonDirect + 1 } })
            turns := s.engine.turns.set k (Fin.ofNat 10 (i.val + 2)) } }) ∧
      (s.Refuses p (c.enc.code x).bits.length →
        ∃ t, exec .cpGrant s = .next t ∧
          t.compose i = some { c with current := none, lead := 0, queue := [], disorder := false
                                      window := .truncated } ∧
          t.pageFlags p = s.pageFlags p ||| (if c.disorder then 0x05 else 0x01) ∧
          t.pageState p = .filling ∧ t.pageLines p = s.pageLines p ∧ t.codedBits p = s.codedBits p ∧
          t.store = s.store ∧ t.request = s.request ∧
          ∀ cycle, s.path.waiting = some { cycle := cycle, why := .composeSlot c.entry } →
            t.path.waiting = none ∧ t.path.ending = some (.done none))) ∧
  ∀ (s : State) (k : Fin 7) (f : EncodeFrame) (x : Raster) (rest : List Raster) (sheet : Bool),
    s.path.hold = false → s.engineChoice = some (k, .sc) → s.engine.sc = some f →
    s.scan.ring = x :: rest →
    let committed := fun (w : State) (m : Memory) => { w with
      memory := m
      scan := { s.scan with ring := rest }
      engine := { s.engine with
        sc := some { f with
          next := f.next + 1
          position := f.position + (f.code x).bits.length
          reference := x
          nonDirect := if (f.code x).direct then 0 else f.nonDirect + 1 }
        turns := s.engine.turns.set k 1 } }
    (rest ≠ [] ∨ s.scan.state = .reading → s.commits f.page (f.code x).bits [] (fun w m =>
      exec (.scGrant sheet) s = .next (committed w m))) ∧
    (rest = [] → s.scan.state = .closing → s.scan.page = some f.page → 1 ≤ s.references f.page →
      s.path.state ≠ .pass → s.request.unread + 4 ≤ 128 → s.LeavesBelow f.page →
      s.commits f.page (f.code x).bits [] (fun w m =>
        ∃ t, exec (.scGrant sheet) s = .next t ∧ SheetClosed (committed w m) t f.page sheet)) ∧
    (s.Refuses f.page (f.code x).bits.length → exec (.scGrant sheet) s = .next { s with
      scan := { s.scan with state := .storeWait (s.scan.state == .closing)
                            waitUntil := s.time.runClock + 300 }
      engine := { s.engine with turns := s.engine.turns.set k 1 } })

/-! ### The raster view (Chapter 6) -/

/-- RASTER_READ in a bound entry (R7, R93, R96 to R98, R104): white without waits, from the cache with the
line made the most recent and the prefetch line set, or waiting with the line as target. -/
def Obligations.RasterReadCases : Prop :=
  ∀ (s : State) (e : Fin 8) (b : Binding) (v : ViewContext) (addr : BitVec 26) (be : Enables) (a : Attr),
    s.PortFree → s.Passes e .raster addr.toNat a → (s.aperture e).binding = some b →
    s.view b.ctx = some v → v.cache.length ≤ 4 →
    let off := addr.toNat - (s.aperture e).base
    let line := (s.aperture e).origin + off / (s.aperture e).stride
    let byte := off % (s.aperture e).stride
    let white := be = 0 ∨ 224 ≤ byte ∨ 2560 ≤ line ∨ s.pageState v.dec.page = .dropped ∨
      (s.pageState v.dec.page = .sealed ∧ s.pageLines v.dec.page ≤ line)
    (white → exec (.rasterRead addr be a) s = .next { s with path := s.path.ended (.done (some 0)) }) ∧
    (∀ x, ¬ white → v.cache.find? (fun y => y.1 == line) = some (line, x) →
      ∃ w : Word, (∀ i, i < 4 → Word.byte w i = if be.getLsbD i then lineByte x (byte + i) else 0) ∧
        exec (.rasterRead addr be a) s = .next { s with
          engine := { s.engine with rv := s.engine.rv.set b.ctx (some { v with
            cache := v.cache.filter (fun y => y.1 != line) ++ [(line, x)]
            fetch := if line < 2559 then some (line + 1) else none }) }
          path := s.path.ended (.done (some w)) }) ∧
    (¬ white → v.cache.find? (fun y => y.1 == line) = none →
      exec (.rasterRead addr be a) s = .next { s with
        engine := { s.engine with rv := s.engine.rv.set b.ctx (some { v with target := some line }) }
        path := { s.path with
          waiting := some { cycle := readCycle addr.toNat be false a, why := .view e }, ending := none } })

/-- RASTER_WRITE (R100, whole): a write into a bound RASTER entry that passes the checks ends normally and
changes nothing. -/
def Obligations.RasterWriteChangesNothing : Prop :=
  ∀ (s : State) (e : Fin 8) (addr : BitVec 26) (data : Word) (be : Enables) (program : Bool) (a : Attr),
    s.PortFree → s.Passes e .raster addr.toNat a → (s.aperture e).binding ≠ none →
    exec (.rasterWrite addr data be program a) s = .next { s with path := s.path.ended (.done none) }

/-- RV_GRANT, RASTER_READ_COMPLETE and the decoding of stored lines (R37, R66, R75, R93, R98, R99, R104): a
decode reads the bits of the page's stream along its chain; a line of a DROPPED page, and one beyond the lines
of a page that is no longer FILLING, is white; at a line error the line and the later ones up to the next
restart line are white with the ERROR mark, and at that line the decoder repositions by the Restart Table. A
view decodes onward where it stands between a line's restart line and the line, from the restart line where
that is committed, and has no start otherwise. A grant decodes one line towards the target, or else the
prefetch line, and it enters the cache as its most recent line; a waiting read whose line is cached returns its
bytes, the target becoming none and the prefetch line the next one. That a reposition sets the reference line
white (log 52) and ends a span of errors (log 53), that a frame between the two lines decodes onward whatever the
Restart Table entry of the restart line (log 70), and that lines from 2560 on are decoded where a record names
them (log 80), is the model's. -/
def Obligations.ViewDecodesTowardsItsTarget : Prop :=
  (∀ (s : State) (p : Nat) (pos : StreamPos) (k leaf : Nat), s.ChainStands p →
    (s.chainOf p)[pos.chain]? = some pos.leaf → pos.chain ≤ k / 32768 →
    (s.chainOf p)[k / 32768]? = some leaf →
    s.streamBit p pos k = if s.codedBits p ≤ k then none
      else some ((s.memory.read (s.store.leafBase + 4096 * leaf + k % 32768 / 8)).getMsbD (k % 8))) ∧
  (∀ (s : State) (f : DecodeFrame),
    let d := s.decodeNext f
    let white := s.pageState f.page = .dropped ∨
      (s.pageState f.page ≠ .filling ∧ s.pageLines f.page ≤ f.next)
    (white → d.pixels = 0 ∧ d.error = false ∧ d.frame = { f with next := f.next + 1 }) ∧
    (¬ white → f.next < f.errorBelow → d.pixels = 0 ∧ d.error = true ∧
      d.frame = { f with next := f.next + 1, pos := d.frame.pos }) ∧
    (¬ white → f.errorBelow = 0 ∨ f.errorBelow < f.next → s.ReadsLine (if f.pos.offset = 0 then
      { f with pos := { leaf := s.firstLeaf f.page, chain := 0, offset := 0 } } else f) d) ∧
    (¬ white → f.errorBelow = f.next → 0 < f.next → f.next < 2560 →
      (s.restartEntry f.page (f.next / 64) = none → d.pixels = 0 ∧ d.error = true ∧
        d.frame = { f with next := f.next + 1, reference := 0, errorBelow := 2560 }) ∧
      ∀ offset leaf, s.restartEntry f.page (f.next / 64) = some offset → s.ChainStands f.page →
        (s.chainOf f.page)[offset / 32768]? = some leaf →
        s.ReadsLine { f with pos := { leaf := leaf, chain := offset / 32768, offset := offset }
                             reference := 0, errorBelow := 0 } d)) ∧
  (∀ (s : State) (v : ViewContext) (line : Nat),
    let f := v.dec
    let r := 64 * (line / 64)
    (r ≤ f.next → f.next ≤ line → s.viewStart v line = some f) ∧
    (f.next < r ∨ line < f.next → s.pageLines f.page ≤ r → s.viewStart v line = none) ∧
    (f.next < r ∨ line < f.next → r < s.pageLines f.page →
      (s.restartEntry f.page (line / 64) = none → s.viewStart v line
        = some { f with next := r, reference := 0, errorBelow := 2560 }) ∧
      ∀ offset leaf, s.restartEntry f.page (line / 64) = some offset → s.ChainStands f.page →
        (s.chainOf f.page)[offset / 32768]? = some leaf → s.viewStart v line = some { f with
          next := r
          pos := { leaf := leaf, chain := offset / 32768, offset := offset }
          reference := 0
          errorBelow := 0 })) ∧
  (∀ (s : State) (k : Fin 7) (i : Fin 2) (v : ViewContext) (line : Nat) (f : DecodeFrame),
    s.path.hold = false → s.engineChoice = some (k, .rv i) → s.view i = some v → v.cache.length ≤ 4 →
    (v.target = some line ∨ (v.target = none ∧ v.fetch = some line)) → s.viewStart v line = some f →
    ∃ cache : List (Nat × Raster), cache.length ≤ 4 ∧
      cache.getLast? = some (f.next, (s.decodeNext f).pixels) ∧
      (∀ y ∈ cache, y ∈ v.cache ∨ y = (f.next, (s.decodeNext f).pixels)) ∧
      exec .rvGrant s = .next { s with engine := { s.engine with
        rv := s.engine.rv.set i (some { v with cache := cache, dec := (s.decodeNext f).frame })
        turns := s.engine.turns.set k (Fin.ofNat 10 (i.val + 4)) } }) ∧
  ∀ (s : State) (c : Cycle) (e : Fin 8) (i : Fin 2) (v : ViewContext) (line : Nat) (x : Raster),
    s.path.waiting = some { cycle := c, why := .view e } → s.view i = some v → v.entry = e →
    (∀ j w, j < i → s.view j = some w → w.entry ≠ e) → v.cache.length ≤ 4 → v.target = some line →
    v.cache.find? (fun y => y.1 == line) = some (line, x) →
    ∃ w : Word,
      (∀ n, n < 4 → Word.byte w n = if c.be.getLsbD n
        then lineByte x ((c.addr - (s.aperture e).base) % (s.aperture e).stride + n) else 0) ∧
      exec .rasterReadComplete s = .next { s with
        engine := { s.engine with rv := s.engine.rv.set i (some { v with
          cache := v.cache.filter (fun y => y.1 != line) ++ [(line, x)]
          fetch := if line < 2559 then some (line + 1) else none
          target := none }) }
        path := s.path.ended (.done (some w)) }

/-! ### DIGITS Apertures (Section 7.1) -/

/-- DIGITS_WRITE and DIGITS_READ (R6, R108, R109): the queue drains; a write packs the selected characters
into their nibbles of the target area and leaves every other nibble and byte; a read returns the
canonical character of each selected nibble and zero for the others, and changes no memory. -/
def Obligations.DigitsPackAndUnpack : Prop :=
  ∀ (s : State) (e : Fin 8) (addr : BitVec 26) (be : Enables) (a : Attr), s.PortFree →
    s.Passes e .digits addr.toNat a → a.stretched = false →
    let o := addr.toNat - (s.aperture e).base
    let target := (s.aperture e).target
    let m := s.memory.posted s.path.queue
    (∀ (data : Word) (program : Bool), ∃ m' : Memory,
      exec (.digitsWrite addr data be program a) s
        = .next { s with memory := m', path := s.path.drained (.done none) } ∧
      (∀ n, m'.nibbleAt target n = if o ≤ n ∧ n < o + 4 ∧ be.getLsbD (n - o) = true
        then nibbleOf (Word.byte data (n - o)) else m.nibbleAt target n) ∧
      ∀ x, x < target + o / 2 ∨ target + (o + 3) / 2 < x → m'.read x = m.read x) ∧
    ∃ w : Word,
      exec (.digitsRead addr be a) s
        = .next { s with memory := m, path := s.path.drained (.done (some w)) } ∧
      ∀ i, i < 4 → Word.byte w i = if be.getLsbD i then characterOf (m.nibbleAt target (o + i)) else 0

/-! ### Notices and requests (Sections 2.6 and 2.7) -/

/-- Notices (R26, R32, R33): one taken while 128 are unread is dropped and sets NOTICE LOST, and a request
so answered still advances the take index; otherwise the notice stands in its ring entry, the produce
index has advanced and is written, and no other byte of memory has changed. That the unlisted bits of the flags
and index words so written are zero is the model's choice (log 82). -/
def Obligations.NoticesBeyondTheRingAreDropped : Prop :=
  ∀ (s : State) (x : Notice), s.path.hold = false → s.path.state ≠ .pass →
    (128 ≤ s.request.unread →
      s.raise x = { s with request := { s.request with noticeLost := true } }.unitWrote .requestUnit 0x08
        { s.request with noticeLost := true }.flagsWord ∧
      ∀ (k : RequestKind) (r : Result) (v1 v2 : Option Nat),
        (s.reply k r v1 v2).request = { s.request with noticeLost := true, take := s.request.take + 1,
                                                       executing := none }) ∧
    (s.request.unread < 128 → x.subject.length = 2 →
      let slot := 0xC00 + 16 * (s.request.produce.toNat % 128)
      (s.raise x).request = { s.request with produce := s.request.produce + 1 } ∧
      (s.raise x).bytesAt slot 16 = x.bytes s.timeOfDay s.free ∧
      (s.raise x).valueAt 0x18 4 = (s.request.produce + 1).toNat ∧
      ∀ a, (a < s.regionBase + slot ∨ s.regionBase + slot + 16 ≤ a) →
        (a < s.regionBase + 0x18 ∨ s.regionBase + 0x1C ≤ a) → (s.raise x).memory.read a = s.memory.read a)

/-- REQUEST DONE (R30, R31, Table 12.5): kind and request kind, result, the entry's tag as it was read, the time
and the two values stand in the ring, and the take index advances by one and is written. UNKNOWN_REQUEST answers
an entry whose kind names no request with UNKNOWN and request kind 0. That bits 16 to 31 of the index word written
are zero is the model's choice (log 82). -/
def Obligations.RequestsAreAnswered : Prop :=
  (∀ (s : State) (k : RequestKind) (r : Result) (v1 v2 : Nat), s.path.hold = false →
    s.path.state ≠ .pass → s.request.unread < 128 →
    let slot := 0xC00 + 16 * (s.request.produce.toNat % 128)
    let t := s.reply k r (some v1) (some v2)
    t.request = { s.request with produce := s.request.produce + 1, take := s.request.take + 1,
                                 executing := none } ∧
    (∀ tag, (s.request.executing = none ∧ tag = s.bytesAt (0x400 + 32 * (s.request.take.toNat % 64) + 2) 2)
        ∨ (tag.length = 2 ∧ ∃ e, s.request.executing = some (.push e tag) ∨
            s.request.executing = some (.seal e tag)) →
      t.bytesAt slot 16 = [BitVec.ofNat 8 (1 + 16 * k.code), BitVec.ofNat 8 r.code]
        ++ tag ++ leBytes 4 s.timeOfDay ++ leBytes 4 v1 ++ leBytes 4 v2) ∧
    t.valueAt 0x14 4 = (s.request.take + 1).toNat ∧
    ∀ a, (a < s.regionBase + slot ∨ s.regionBase + slot + 16 ≤ a) →
      (a < s.regionBase + 0x14 ∨ s.regionBase + 0x1C ≤ a) → t.memory.read a = s.memory.read a) ∧
  ∀ s : State, s.path.hold = false → s.canTakeRequest = true → s.request.unread < 128 →
    (s.requestKind = 0 ∨ 14 < s.requestKind) →
    ∃ t, exec .unknownRequest s = .next t ∧
      t.request = { s.request with produce := s.request.produce + 1, take := s.request.take + 1,
                                   executing := none } ∧
      t.bytesAt (0xC00 + 16 * (s.request.produce.toNat % 128)) 4
        = [0x01, 0x01] ++ s.bytesAt (0x400 + 32 * (s.request.take.toNat % 64) + 2) 2

/-- SCAN_DOCUMENT, STOP_SCAN, FEED_STEP and FEED_COUNT_EXPIRY (R42, R79, R80, R85, R86): the checks of a scan
in their order and what an accepted one sets, the SC context taken with a frame of page 0 that has no work
(the model's, log 41); a stop of an IDLE unit is answered STATE, and any other ends the scan. A feeding step
steps the motor and counts, or finds EDGE covered and creates the SCAN page, which SC codes; with no FREE
record the scan ends DIRECTORY FULL; the 400th step without EDGE ends it MISFEED. -/
def Obligations.ScansFeedTheirSheets : Prop :=
  ((∀ (s : State) (sheet : Bool), s.Takes .scanDocument →
    let pages := s.argument 4
    let good := s.argument 1 ≤ 1 ∧ 1 ≤ pages ∧ pages ≤ 50 ∧
      ((s.argument 2 = 0 ∧ s.argument 3 ≤ 255) ∨
        (s.argument 2 = 1 ∧ 8 ≤ s.argument 3 ∧ s.argument 3 ≤ 15))
    (¬ good → exec (.scanDocument sheet) s = .next (s.reply .scanDocument .argument)) ∧
    (good → s.scan.state ≠ .idle → exec (.scanDocument sheet) s = .next (s.reply .scanDocument .busy)) ∧
    (good → s.scan.state = .idle → sheet = false →
      exec (.scanDocument sheet) s = .next (s.reply .scanDocument .noSheet)) ∧
    (good → s.scan.state = .idle → sheet = true →
      exec (.scanDocument sheet) s = .next ({ s with
        scan := { s.scan with
          resolution := if s.argument 1 = 0 then .draft else .fine
          threshold := if s.argument 2 = 0 then .fixed (s.argument 3) else .track (s.argument 3)
          maxPages := pages
          pagesSealed := 0
          state := .feeding
          feedSteps := 0
          motorSteps := 0 }
        engine := { s.engine with sc := some (EncodeFrame.start 0) } }.reply .scanDocument .ok))) ∧
  ∀ s : State, s.Takes .stopScan →
    (s.scan.state = .idle → exec .stopScan s = .next (s.reply .stopScan .state)) ∧
    (s.scan.state ≠ .idle → s.scan.page = none → exec .stopScan s = .next (({ s with
      scan := { s.scan with state := .idle, ring := [] }
      engine := { s.engine with sc := none } }.raise
        { kind := .scanEnded, code := some 36, subject := [0xFF, 0xFF], value1 := some s.scan.pagesSealed,
          value2 := some 0xFFFFFFFF }).reply .stopScan .ok)) ∧
    ∀ p, s.scan.state ≠ .idle → s.scan.page = some p → p < 128 → s.pageState p = .filling →
      ∃ t, exec .stopScan s = .next t ∧ t.scan.state = .idle ∧ t.scan.ring = [] ∧ t.scan.page = none ∧
        t.engine.sc = none ∧ t.request.take = s.request.take + 1 ∧ t.pageOwned p = false ∧
        (t.pageState p = .dropped ∨ t.pageState p = .free)) ∧
  ∀ s : State, s.path.hold = false → s.scan.state = .feeding →
    (s.scan.feedSteps < 400 →
      exec (.feedStep false) s
        = .next { s with scan := { s.scan with feedSteps := s.scan.feedSteps + 1
                                               motorSteps := s.scan.motorSteps + 1 } } ∧
      (s.store.taking = true → (∃ p, p < 128 ∧ s.pageState p = .free) →
        ∃ t p, exec (.feedStep true) s = .next t ∧ Created s t p .scan s.scan.resolution ∧
          t.scan = { s.scan with state := .reading, page := some p, linesRead := 0, white := 255
                                 motorSteps := s.scan.motorSteps + 1 } ∧
          t.engine = { s.engine with sc := some { page := p, next := 0, position := 0, reference := 0,
                                                  nonDirect := 0 } }) ∧
      ((∀ p, p < 128 → s.pageState p ≠ .free) →
        exec (.feedStep true) s = .next ({ s with
          scan := { s.scan with state := .idle, ring := [], page := none
                                motorSteps := s.scan.motorSteps + 1 }
          engine := { s.engine with sc := none } }.raise
            { kind := .scanEnded, code := some 37, subject := [0xFF, 0xFF],
              value1 := some s.scan.pagesSealed, value2 := some 0xFFFFFFFF }))) ∧
    (s.scan.feedSteps = 400 → exec .feedCountExpiry s = .next ({ s with
      scan := { s.scan with state := .idle, ring := [], page := none }
      engine := { s.engine with sc := none } }.raise
        { kind := .scanEnded, code := some 33, subject := [0xFF, 0xFF], value1 := some s.scan.pagesSealed,
          value2 := some 0xFFFFFFFF }))

/-- SCAN_LINE_STEP and STORE_WAIT_EXPIRY (R81 to R84, R86): the motor steps once for a FINE line and twice for
a DRAFT one; a pixel is black when its sample is below the threshold, which is fixed or follows the white
level; EDGE uncovered with lines in the ring enters CLOSING, and with an empty ring the page is sealed at
once; the line after 2560 is a JAM, and a store wait that runs out is STORE FULL, with which the page is
dropped and the scan ends. That the wait has run out is read by log 16. -/
def Obligations.ScannedLinesAreThresholded : Prop :=
  (∀ (s : State) (sheet : Bool) (even odd : List Byte) (m : Nat), s.path.hold = false →
    s.scan.state = .reading → s.scan.ring.length < 16 → even.length = 896 → odd.length = 896 →
    let steps := s.scan.motorSteps + if s.scan.resolution = .draft then 2 else 1
    let sample := fun (p : Nat) =>
      if p % 2 = 0 then (even.getD (p / 2) 0).toNat else (odd.getD ((1791 - p) / 2) 0).toNat
    (s.scan.ring ≠ [] → exec (.scanLineStep false sheet even odd) s
      = .next { s with scan := { s.scan with state := .closing, motorSteps := steps } }) ∧
    (∀ p, s.scan.ring = [] → s.scan.page = some p → s.pageState p = .filling → 1 ≤ s.references p →
      s.path.state ≠ .pass → s.request.unread + 3 ≤ 128 →
      ∃ t, exec (.scanLineStep false sheet even odd) s = .next t ∧ SheetClosed s t p sheet) ∧
    (2560 ≤ s.scan.linesRead → ∃ t, exec (.scanLineStep true sheet even odd) s = .next t ∧
      t.scan.state = .idle ∧ t.scan.ring = [] ∧ t.scan.page = none ∧ t.engine.sc = none) ∧
    (∀ p, 2560 ≤ s.scan.linesRead → s.scan.page = some p → p < 128 → s.pageState p = .filling →
      s.path.state ≠ .pass → s.request.unread + 3 ≤ 128 →
      ∃ t, exec (.scanLineStep true sheet even odd) s = .next t ∧ ScanDropped s t 34 p) ∧
    ((∀ p, p < 1792 → sample p ≤ m) → (∃ p, p < 1792 ∧ sample p = m) → s.scan.linesRead < 2560 →
      ∃ line : Raster, ∃ white t : Nat,
        (∀ p, p < 1792 → line.getMsbD p = decide (sample p < t)) ∧
        (∀ f, s.scan.threshold = .fixed f → t = f ∧ white = s.scan.white) ∧
        (∀ q, s.scan.threshold = .track q → t = white * q / 16 ∧
          white = if s.scan.white < m then m else s.scan.white - (s.scan.white - m) / 16) ∧
        exec (.scanLineStep true sheet even odd) s = .next { s with scan := { s.scan with
          white := white, ring := s.scan.ring ++ [line], linesRead := s.scan.linesRead + 1
          motorSteps := steps } })) ∧
  ∀ (s : State) (closing : Bool), s.path.hold = false → s.scan.state = .storeWait closing →
    ((s.time.runClock - s.scan.waitUntil).toNat < 2 ^ 31 →
      (∃ t, exec .storeWaitExpiry s = .next t ∧
        t.scan.state = .idle ∧ t.scan.ring = [] ∧ t.scan.page = none ∧ t.engine.sc = none) ∧
      ∀ p, s.scan.page = some p → p < 128 → s.pageState p = .filling → s.path.state ≠ .pass →
        s.request.unread + 3 ≤ 128 →
        ∃ t, exec .storeWaitExpiry s = .next t ∧ ScanDropped s t 35 p) ∧
    (2 ^ 31 ≤ (s.time.runClock - s.scan.waitUntil).toNat → exec .storeWaitExpiry s = .next s)

/-- OPEN_COMPOSE, PUSH_COMPOSE and PUSH_COMPOSE_RESUME (R30, R42, R53, R71, R87, R91): the refusals of each in
the order of its checks; an accepted open creates the page, takes the context and binds the entry; a push
closes the current line into a free slot and is answered with its index, with NONE where there is none or the
window is TRUNCATED, and waits for a slot otherwise, keeping the tag that was read with its entry. That a
waiting push closes the line that is current when it goes on is the model's choice (log 62). -/
def Obligations.OpenAndPushCompose : Prop :=
  (∀ s : State, s.Takes .openCompose →
    let e : Fin 8 := Fin.ofNat 8 (s.argument 1)
    s.refusedBy .openCompose .openCompose
      [(7 < s.argument 1, .argument),
       (1 < s.argument 2 ∨ (s.aperture e).valid = false ∨ (s.aperture e).kind ≠ .compose, .argument),
       ((s.aperture e).binding ≠ none, .state),
       (∀ i, s.compose i ≠ none, .busy),
       (s.store.taking = false ∨ ∀ p, p < 128 → s.pageState p ≠ .free, .full)]) ∧
  (∀ (s : State) (e : Fin 8) (r : Resolution) (i : Fin 2), s.Takes .openCompose →
    s.argument 1 = e.val → s.argument 2 = r.code → (s.aperture e).valid = true →
    (s.aperture e).kind = .compose → (s.aperture e).binding = none → s.compose i = none →
    (∀ j, j < i → s.compose j ≠ none) → s.store.taking = true → (∃ p, p < 128 ∧ s.pageState p = .free) →
    ∃ t p, exec .openCompose s = .next t ∧ Created s t p .compose r ∧
      t.aperture e = { s.aperture e with binding := some { page := p, ctx := i } } ∧
      t.compose i = some { entry := e
                           enc := { page := p, next := 0, position := 0, reference := 0, nonDirect := 0 }
                           current := none, closedThrough := none, lead := 0, queue := [],
                           disorder := false, window := .opened } ∧
      t.request.take = s.request.take + 1) ∧
  (∀ s : State, s.Takes .pushCompose →
    let x := s.aperture (Fin.ofNat 8 (s.argument 1))
    s.refusedBy .pushCompose .pushCompose
      [(7 < s.argument 1, .argument), (x.kind ≠ .compose ∨ x.binding = none, .state)]) ∧
  ∀ (s : State) (e : Fin 8) (b : Binding) (c : ComposeContext), (s.aperture e).kind = .compose →
    (s.aperture e).binding = some b → s.compose b.ctx = some c → s.path.hold = false →
    let asked := s.requestIs 4 = true ∧ s.argument 1 = e.val
    let resumed := fun (tag : List Byte) => s.request.executing = some (.push e tag)
    let none_ := s.reply .pushCompose .ok (some 0xFFFFFFFF)
    let closed := fun (line : Nat) (x : Raster) => State.reply
      { s with engine := { s.engine with cp := s.engine.cp.set b.ctx (some { c with
          queue := c.queue ++ [{ index := line, pixels := x, lead := c.lead }]
          closedThrough := some line
          lead := 0
          current := none }) } } .pushCompose .ok (some line)
    (c.window = .truncated ∨ c.current = none →
      (asked → exec .pushCompose s = .next none_) ∧
      ∀ tag, resumed tag → exec .pushComposeResume s = .next none_) ∧
    ∀ line x, c.window ≠ .truncated → c.current = some (line, x) →
      (c.queue.length < 2 → (asked → exec .pushCompose s = .next (closed line x)) ∧
        ∀ tag, resumed tag → exec .pushComposeResume s = .next (closed line x)) ∧
      (2 ≤ c.queue.length →
        (asked → exec .pushCompose s = .next { s with
          request := { s.request with
            executing := some (.push e (s.bytesAt (0x400 + 32 * (s.request.take.toNat % 64) + 2) 2)) }
          arbiter := s.arbiter.granted .requestUnit }) ∧
        ∀ tag, resumed tag → exec .pushComposeResume s = .next s)

/-- SEAL_COMPOSE and SEAL_COMPOSE_RESUME (R30, R45, R89 to R91): the refusals of a seal in order; a write that
waits for a slot of the entry ends and is discarded, and the window is CLOSING. A current line is closed into
the queue, with its lead, as soon as a slot is free, and the request waits, keeping the tag that was read with
its entry; with nothing left to code, or at once in a TRUNCATED window, the page is SEALED, with DISORDER where
it is marked, the entry unbound, the context FREE and the request answered. -/
def Obligations.SealComposeEndsTheWindow : Prop :=
  (∀ s : State, s.Takes .sealCompose →
    let x := s.aperture (Fin.ofNat 8 (s.argument 1))
    s.refusedBy .sealCompose .sealCompose
      [(7 < s.argument 1, .argument), (x.kind ≠ .compose ∨ x.binding = none, .state)]) ∧
  ∀ (s : State) (e : Fin 8) (b : Binding) (c : ComposeContext), (s.aperture e).kind = .compose →
    (s.aperture e).binding = some b → s.compose b.ctx = some c → s.path.hold = false → c.enc.page < 128 →
    s.pageState c.enc.page = .filling →
    let p := c.enc.page
    let asked := s.requestIs 5 = true ∧ s.argument 1 = e.val
    let resumed := fun (tag : List Byte) => s.request.executing = some (.seal e tag)
    let ends := fun (o : Host.Outcome State Fault Refusal) => ∃ t, o = .next t ∧
      (t.aperture e).binding = none ∧ t.compose b.ctx = none ∧ t.request.take = s.request.take + 1 ∧
      t.request.executing = none ∧
      ((t.pageState p = .sealed ∧ t.valueAt (pageOffset p + 0x14) 4 = s.timeOfDay ∧
          (t.pageFlags p).getLsbD 2 = ((s.pageFlags p).getLsbD 2 || c.disorder)) ∨
        (s.references p = 0 ∧ t.pageState p = .free)) ∧
      ∀ cycle, asked → c.window ≠ .truncated →
        s.path.waiting = some { cycle := cycle, why := .composeSlot e } →
        t.path.waiting = none ∧ t.path.ending = some (.done none)
    let closed := fun (line : Nat) (x : Raster) => { c with
      window := .closing
      queue := c.queue ++ [{ index := line, pixels := x, lead := c.lead }]
      closedThrough := some line
      lead := 0
      current := none }
    let waits := fun (y : ComposeContext) (path : PathUnit) => (.next { s with
      engine := { s.engine with cp := s.engine.cp.set b.ctx (some y) }
      path := path
      request := { s.request with
        executing := some (.seal e (s.bytesAt (0x400 + 32 * (s.request.take.toNat % 64) + 2) 2)) }
      arbiter := s.arbiter.granted .requestUnit } : Host.Outcome State Fault Refusal)
    (asked → c.window = .truncated ∨ (c.current = none ∧ c.queue = []) → ends (exec .sealCompose s)) ∧
    (∀ path : PathUnit, asked → c.window ≠ .truncated →
      ((∀ cycle, s.path.waiting ≠ some { cycle := cycle, why := .composeSlot e }) ∧ path = s.path) ∨
        (∃ cycle, s.path.waiting = some { cycle := cycle, why := .composeSlot e } ∧
          path = s.path.ended (.done none)) →
      (∀ line x, c.current = some (line, x) →
        (c.queue.length < 2 → exec .sealCompose s = waits (closed line x) path) ∧
        (2 ≤ c.queue.length → exec .sealCompose s = waits { c with window := .closing } path)) ∧
      (c.current = none → c.queue ≠ [] → exec .sealCompose s = waits { c with window := .closing } path)) ∧
    ∀ tag, resumed tag →
      (c.window = .truncated ∨ (c.current = none ∧ c.queue = []) → ends (exec .sealComposeResume s)) ∧
      (c.window = .closing →
        (∀ line x, c.current = some (line, x) → c.queue.length < 2 → exec .sealComposeResume s = .next { s with
          engine := { s.engine with cp := s.engine.cp.set b.ctx (some (closed line x)) } }) ∧
        ((∃ x, c.current = some x ∧ 2 ≤ c.queue.length) ∨ (c.current = none ∧ c.queue ≠ []) →
          exec .sealComposeResume s = .next s))

/-- BIND_RASTER and UNBIND (R46, R47, R53, R92, R94, R95, R103): the refusals of each in the order of its
checks; an accepted bind takes a Reference, the lowest
FREE context and the line origin as prefetch line; an unbind of a view ends a read that waits on it with
UNBOUND, frees the context and drops the Reference, with which the page may be freed; an unbind of a COMPOSE
entry drops its page with code UNBIND, frees the context and ends a write that waits for a slot. -/
def Obligations.ViewsAreBoundAndUnbound : Prop :=
  (∀ s : State,
    let n := s.argument 1
    let e : Fin 8 := Fin.ofNat 8 n
    let p := s.argument 2
    (s.Takes .bindRaster → s.refusedBy .bindRaster .bindRaster
      [(7 < n, .argument),
       (127 < p ∨ (s.aperture e).valid = false ∨ (s.aperture e).kind ≠ .raster, .argument),
       ((s.aperture e).binding ≠ none, .state),
       (∀ i, s.view i ≠ none, .busy),
       (s.pageState p ≠ .filling ∧ s.pageState p ≠ .sealed, .noPage),
       (s.store.taking = false ∨ 250 < s.references p, .full)]) ∧
    (s.Takes .unbind → s.refusedBy .unbind .unbind
      [(7 < n, .argument), ((s.aperture e).binding = none, .state)])) ∧
  (∀ (s : State) (e : Fin 8) (i : Fin 2), s.Takes .bindRaster → s.argument 1 = e.val →
    s.argument 2 < 128 → (s.aperture e).valid = true → (s.aperture e).kind = .raster →
    (s.aperture e).binding = none → s.view i = none → (∀ j, j < i → s.view j ≠ none) →
    (s.pageState (s.argument 2) = .filling ∨ s.pageState (s.argument 2) = .sealed) →
    s.store.taking = true → s.references (s.argument 2) ≤ 250 →
    let p := s.argument 2
    ∃ t, exec .bindRaster s = .next t ∧ t.references p = s.references p + 1 ∧
      t.valueAt (pageOffset p + 6) 1 = s.references p + 1 ∧
      t.aperture e = { s.aperture e with binding := some { page := p, ctx := i } } ∧
      t.view i = some { entry := e
                        dec := { page := p, next := 0
                                 pos := { leaf := s.firstLeaf p, chain := 0, offset := 0 }
                                 reference := 0, errorBelow := 0 }
                        cache := [], target := none, fetch := some (s.aperture e).origin } ∧
      t.request.take = s.request.take + 1) ∧
  (∀ (s : State) (e : Fin 8) (b : Binding) (c : ComposeContext), s.Takes .unbind → s.argument 1 = e.val →
    (s.aperture e).kind = .compose → (s.aperture e).binding = some b → s.compose b.ctx = some c →
    c.enc.page < 128 → s.pageState c.enc.page = .filling → s.request.unread + 3 ≤ 128 →
    let p := c.enc.page
    ∃ t, exec .unbind s = .next t ∧ t.aperture e = { s.aperture e with binding := none } ∧
      t.compose b.ctx = none ∧ t.request.take = s.request.take + 1 ∧ t.pageOwned p = false ∧
      (t.pageState p = .dropped ∨ t.pageState p = .free) ∧
      (t.noticeAt s.request.produce).take 4 = [4, 39, BitVec.ofNat 8 p, 0xFF] ∧
      t.lastNotice.take 12 = [0x71, 0] ++ s.bytesAt (0x400 + 32 * (s.request.take.toNat % 64) + 2) 2
        ++ leBytes 4 s.timeOfDay ++ leBytes 4 p ∧
      ∀ cycle, s.path.waiting = some { cycle := cycle, why := .composeSlot e } →
        t.path.waiting = none ∧ t.path.ending = some (.done none)) ∧
  ∀ (s : State) (e : Fin 8) (b : Binding) (v : ViewContext), s.Takes .unbind → s.argument 1 = e.val →
    (s.aperture e).kind = .raster → (s.aperture e).binding = some b → s.view b.ctx = some v →
    v.dec.page < 128 →
    ∃ t, exec .unbind s = .next t ∧ t.aperture e = { s.aperture e with binding := none } ∧
      t.view b.ctx = none ∧ t.request.take = s.request.take + 1 ∧
      t.references v.dec.page = s.references v.dec.page - 1 ∧
      (∀ c, s.path.waiting = some { cycle := c, why := .view e } →
        t.path.waiting = none ∧ t.path.ending = some (.busError .unbound)) ∧
      ((s.pageState v.dec.page = .sealed ∨ s.pageState v.dec.page = .dropped) →
        s.references v.dec.page ≤ 1 → t.pageState v.dec.page = .free)

/-- RELEASE_PAGE (R38, R39, R41, R44, R47, R50): the owner Reference is given up and OWNED cleared; a SEALED or
DROPPED page with no other Reference is freed and its Leaves go on the stack, the last of the chain on top.
The refusals by their order. The two operations that move Leaves, allocation and freeing, keep the account of
R39; and RELEASE_PAGE, BIND_RASTER and UNBIND keep each page's count equal to its holders (R47). -/
def Obligations.ReleaseGivesUpTheOwnerReference : Prop :=
  (∀ s : State, s.Takes .releasePage →
    let p := s.argument 1
    (127 < p → exec .releasePage s = .next (s.reply .releasePage .argument)) ∧
    (p ≤ 127 → s.pageState p = .free → exec .releasePage s = .next (s.reply .releasePage .noPage)) ∧
    (p ≤ 127 → s.pageState p ≠ .free → s.pageOwned p = false →
      exec .releasePage s = .next (s.reply .releasePage .state)) ∧
    (p ≤ 127 → s.pageState p ≠ .free → s.pageOwned p = true →
      ∃ t, exec .releasePage s = .next t ∧ t.pageOwned p = false ∧ t.request.take = s.request.take + 1 ∧
        t.references p = s.references p - 1 ∧
        ((s.pageState p = .filling ∨ 1 < s.references p) →
          t.pageState p = s.pageState p ∧ t.store.depth = s.store.depth ∧
          t.valueAt (pageOffset p + 6) 1 = (s.references p - 1) % 256) ∧
        (s.pageState p ≠ .filling → s.references p ≤ 1 →
          let chain := s.chainOf p
          t.pageState p = .free ∧ t.store.depth = s.store.depth + chain.length ∧
          t.leavesOf p = 0 ∧ (chain ≠ [] → t.valueAt 0x44 4 = t.store.depth % 2 ^ 32) ∧
          (∀ n, n < s.store.depth → t.valueAt (0x0D000 + 2 * n) 2 = s.valueAt (0x0D000 + 2 * n) 2) ∧
          ∀ n leaf, chain[n]? = some leaf → t.valueAt (0x0D000 + 2 * (s.store.depth + n)) 2 = leaf))) ∧
  (∀ (s t : State) (p : Nat), p < 128 → s.leavesOf p < 65535 → s.allocate p = some t →
    t.store.depth + 1 = s.store.depth ∧ t.leavesOf p = s.leavesOf p + 1 ∧ t.leafAccount = s.leafAccount) ∧
  (∀ (s : State) (p : Nat), p < 128 → s.pageState p ≠ .free → (s.chainOf p).length = s.leavesOf p →
    (s.freePage p).leafAccount = s.leafAccount) ∧
  ∀ (c : Instr) (s t : State), c = .releasePage ∨ c = .bindRaster ∨ c = .unbind → s.StoreBounded →
    (∀ p, p < 128 → s.references p = s.holders p) → exec c s = .next t →
    ∀ p, p < 128 → t.references p = t.holders p

/-! ### Send jobs (Chapter 9) -/

/-- SUBMIT_SEND (R53, R143, R145, R146, R157): the refusals in the order of its checks. The tariff search takes
the matching entry with the highest number, with its zone and BARRED flag. Of an accepted submission every
destination is PENDING with its zone, BARRED or INVALID; with one PENDING the job is QUEUED at the end of the
submit list and each entry of its page list takes a Reference, and it is DONE otherwise; the submit number is
the count before, and a look is due. That the zone is the whole byte of the entry, were it above 15, is the
model's choice (log 66). -/
def Obligations.SubmittedJobsAreQueued : Prop :=
  (∀ s : State, s.Takes .submitSend →
    let j := s.argument 1
    s.refusedBy .submitSend .submitSend
      [(15 < j, .argument),
       ((s.job j).state = .queued, .state),
       (¬ s.JobWithin j, .argument),
       (∃ p ∈ s.jobPages j, s.pageState p ≠ .sealed, .noPage),
       (∃ p ∈ s.jobPages j, 251 < s.references p + (s.jobPages j).count p, .full)]) ∧
  (∀ (s : State) (number : List Nibble),
    let digits := number.takeWhile (fun n => decide (n.toNat < 14))
    (∀ i, i < 256 → s.tariffTakes i digits → (∀ k, i < k → k < 256 → ¬ s.tariffTakes k digits) →
      s.tariffSearch number = some (s.valueAt (0x2000 + 16 * i + 3) 1,
        decide (s.valueAt (0x2000 + 16 * i + 1) 1 ≠ 0))) ∧
    ((∀ i, i < 256 → ¬ s.tariffTakes i digits) → s.tariffSearch number = none)) ∧
  ∀ s : State, s.Takes .submitSend → s.store.taking = true →
    let j := s.argument 1
    j < 16 → (s.job j).state ≠ .queued → s.JobWithin j →
    (∀ p ∈ s.jobPages j, s.pageState p = .sealed ∧ s.references p + (s.jobPages j).count p ≤ 251) →
    let good := fun (d : Nat) => d < s.jobDestinations j ∧ hasDigit (s.number j d) = true ∧
      ∃ zone, s.tariffSearch (s.number j d) = some (zone, false)
    ∃ t, exec .submitSend s = .next t ∧ t.request.take = s.request.take + 1 ∧
      (∀ d, d < s.jobDestinations j → (t.destination j d).used = 0 ∧ (t.destination j d).startRate = 4 ∧
        (t.destination j d).resume = 0 ∧ (t.destination j d).sequence = none ∧
        (hasDigit (s.number j d) = false → (t.destination j d).state = .invalid) ∧
        (∀ zone, hasDigit (s.number j d) = true → s.tariffSearch (s.number j d) = some (zone, false) →
          (t.destination j d).state = .pending ∧ (t.destination j d).zone = zone) ∧
        (hasDigit (s.number j d) = true → (∀ zone, s.tariffSearch (s.number j d) ≠ some (zone, false)) →
          (t.destination j d).state = .barred)) ∧
      (t.job j).number = s.dispatcher.submitCount % 2 ^ 32 ∧ (t.job j).cancelling = false ∧
      t.dispatcher.lookPending = true ∧
      t.dispatcher.submitCount = min (s.dispatcher.submitCount + 1) 4294967295 ∧
      ((∃ d, good d) → (t.job j).state = .queued ∧
        t.dispatcher.submitList = s.dispatcher.submitList ++ [j] ∧
        ∀ p, p < 128 → t.references p = s.references p + (s.jobPages j).count p) ∧
      ((∀ d, ¬ good d) → (t.job j).state = .done ∧
        t.dispatcher.submitList = s.dispatcher.submitList ∧
        ∀ p, p < 128 → t.references p = s.references p)

/-- CANCEL_SEND (R119, R132, R152 to R154). Of a job with no call in progress: its PENDING destinations are
CANCELLED and the others stay, the job is DONE with CANCELLING set and leaves the submit list, and its page
list drops its References, none of them the last of its page here. Of a job with a call in progress: the line
is ordered clear; before LINKED it rests at once, the destination CANCELLED and the job DONE, the call's charge
going to its desk, which may be CAPPED or enter CAPPED by it; a LINKED line enters CLEARING with its FAREWELL,
a page in progress loses its transmitting Reference, and the job stays QUEUED until its outcome is applied. Where
a send is in progress at a LINKED line (R124), that the FAREWELL waits for its end and that its 6.0 s run from
the entry of CLEARING all the same is the model's choice (log 20: DEDUCED, unsafe); that a line that rests at once
has an idle Pump Link, whatever it was sending, is the model's choice too (log 63: DESIGN CHOICE, unsafe). The
refusals in order. -/
def Obligations.CancelledJobsAreDone : Prop :=
  (∀ s : State, s.Takes .cancelSend →
    let j := s.argument 1
    s.refusedBy .cancelSend .cancelSend
      [(15 < j, .argument), ((s.job j).state ≠ .queued ∨ (s.job j).cancelling = true, .state)]) ∧
  ∀ s : State, s.Takes .cancelSend → s.charge.orders = [] →
    let j := s.argument 1
    j < 16 → (s.job j).state = .queued → (s.job j).cancelling = false → s.jobDestinations j ≤ 48 →
    (∀ p ∈ s.jobPages j, (s.jobPages j).count p < s.references p) →
    ((∀ d, d < s.jobDestinations j → (s.destination j d).state ≠ .calling) →
      ∃ t, exec .cancelSend s = .next t ∧ t.request.take = s.request.take + 1 ∧
        (∀ d, d < s.jobDestinations j → (t.destination j d).state
          = if (s.destination j d).state = .pending then .cancelled else (s.destination j d).state) ∧
        (t.job j).state = .done ∧ (t.job j).cancelling = true ∧
        t.dispatcher.submitList = s.dispatcher.submitList.filter (fun k => k != j) ∧
        ∀ p, p < 128 → t.references p = s.references p - (s.jobPages j).count p) ∧
    ∀ (e : Nat) (l : LineNo) (c : Call) (f : OutgoingFacts), e < s.jobDestinations j →
      (∀ d, d < s.jobDestinations j → ((s.destination j d).state = .calling ↔ d = e)) →
      (s.destination j e).line = l.val → (s.line l).call = some c → c.out = some f → f.job = j →
      f.destination = e → (s.meterOf l).desk < 32 →
      let m := s.meterOf l
      let bill := (m.basis * (1000 + (s.desk m.desk).markup) + 5000) / 10000
      let total := min (s.deskTotal m.desk + bill) 99999999
      let alone := ∀ n, n ≠ l → ¬ ((s.meterOf n).active = true ∧ (s.meterOf n).desk = m.desk)
      let others := fun (t : State) => ∀ d, d < s.jobDestinations j → d ≠ e → (t.destination j d).state
        = if (s.destination j d).state = .pending then .cancelled else (s.destination j d).state
      ((s.line l).state = .seized ∨ (s.line l).state = .dialling ∨ (s.line l).state = .alerting →
        (s.line l).link = none → s.deskCap m.desk = 0 ∨ (s.desk m.desk).capped = true ∨ alone →
        ∃ t, exec .cancelSend s = .next t ∧ t.request.take = s.request.take + 1 ∧ others t ∧
          t.deskTotal m.desk = total ∧
          (alone → ((t.desk m.desk).capped = true ↔ (s.desk m.desk).capped = true ∨
            (s.deskCap m.desk ≠ 0 ∧ s.deskCap m.desk ≤ total))) ∧
          t.line l = LineChannel.atRest (s.line l).held ∧ (t.destination j e).state = .cancelled ∧
          (t.destination j e).lastOutcome = 28 ∧ (t.destination j e).line = 255 ∧
          (t.destination j e).used = (s.destination j e).used ∧
          (t.job j).state = .done ∧ (t.job j).cancelling = true ∧
          t.dispatcher.submitList = s.dispatcher.submitList.filter (fun k => k != j)) ∧
      ∀ k, (s.line l).state = .linked → (s.line l).link = some k →
        (∀ x, k.sending = some x → x.page < 128 ∧ 2 ≤ s.references x.page) →
        let k' := { k with sending := none }
        ∃ t, exec .cancelSend s = .next t ∧ t.request.take = s.request.take + 1 ∧ others t ∧
          ((s.line l).pump.sending = none → t.line l = (s.line l).clears c k' .cancelled) ∧
          ((s.line l).pump.sending ≠ none → t.line l = { (s.line l).clears c k' .cancelled with
            pump := { (s.line l).pump with farewellWaits := true } }) ∧
          (∀ x, k.sending = some x → x.referenced = true →
            t.references x.page = s.references x.page - 1) ∧
          t.lnContext l = none ∧
          (t.destination j e).state = .calling ∧ (t.job j).state = .queued ∧
          (t.job j).cancelling = true ∧ t.dispatcher.submitList = s.dispatcher.submitList

/-- LOOK (R22, R111, R147 to R150, R159). A choice takes the first destination that the conditions of R148
allow, URGENT jobs first, and then the lowest line that is IDLE, held OUT or BOTH, and leaves the Incoming
Reserve. The destination is handed to that line, which is SEIZED with the hook off and its seizure wait
running; the destination is CALLING on it and its meter is active. With no destination or no line to choose
the look changes nothing but its cause and the arbiter's turn. That the records of a look are read as one
transfer, and that it waits for the end of a LOCKED sequence, is the model's (log 11). -/
def Obligations.LookSeizesALine : Prop :=
  (∀ (s : State) (j d : Nat), s.FirstDue j d → s.chosenDestination = some (j, d)) ∧
  (∀ s : State, (∀ j d, j ∈ s.dispatcher.submitList → d < s.jobDestinations j → d < 48 →
    ¬ s.MayDial j d) → s.chosenDestination = none) ∧
  (∀ (s : State) (l : LineNo), s.mayTake l → (∀ m, m < l → ¬ s.mayTake m) → s.chosenLine = some l) ∧
  (∀ s : State, (∀ l, ¬ s.mayTake l) → s.chosenLine = none) ∧
  (∀ s : State, s.path.hold = true → exec .look s = .next s) ∧
  ∀ s : State, s.isRunning = true → s.dispatcher.lookPending = true → s.path.hold = false →
    s.charge.orders = [] →
    ((s.chosenDestination = none ∨ s.chosenLine = none) → exec .look s
      = .next { s with
          dispatcher := { s.dispatcher with lookPending := false }
          arbiter := if s.dispatcher.submitList = [] then s.arbiter else s.arbiter.granted .dispatcher
        }.syncLines) ∧
    ∀ (j d : Nat) (l : LineNo), s.chosenDestination = some (j, d) → s.chosenLine = some l → d < 48 →
      ∃ t, exec .look s = .next t ∧ t.dispatcher.lookPending = false ∧
        (t.destination j d).state = .calling ∧ (t.destination j d).line = l.val ∧
        t.line l = { s.line l with
          state := .seized
          offHook := true
          settling := true
          timer := if (s.line l).held.blind then some { kind := .blindWait, ms := 2000 }
            else some { kind := .dialTone, ms := 5000 }
          call := some {
            out := some { job := j, destination := d, desk := s.jobDesk j, number := s.number j d,
                          resume := (s.destination j d).resume,
                          startRate := (s.destination j d).startRate }
            config := (s.line l).held, dialled := 0, breaks := 0, rings := 0, seizure := s.now,
            connect := none, outcome := none } } ∧
        (t.meterOf l).active = true ∧ (t.meterOf l).desk = s.jobDesk j ∧
        (t.meterOf l).zone = (s.destination j d).zone ∧ (t.meterOf l).seizure = s.now ∧
        (t.meterOf l).connect = none ∧ (t.meterOf l).localRaw = 0

/-! ### Charging (Chapter 10) -/

/-- SETTLE_DESK (R119, R164 to R166, R168): refused for a desk above 31, a cap that is no number or a markup above
999. Accepted, the desk has the cap and markup given, its figures are cleared when asked, and it is CAPPED just when
a cap that is not 0 is reached by its total and its live estimate under the new markup. A desk that enters CAPPED
raises DESK CAPPED with its total and live estimate; of its one active meter the line is marked cap pending while a
page is in progress, clears with CAP ENDED where it is LINKED between pages, rests at once before LINKED, and is
left as it is in CLEARING, and no other line changes. No line changes where the desk does not enter CAPPED or has no
active meter. A reopening clears cap pending on the desk's meters. A look is due. That the request is answered
before the orders that it gives are carried out is the model's choice (log 68). -/
def Obligations.SettledDesksAreSetAfresh : Prop :=
  (∀ s : State, s.Takes .settleDesk → s.refusedBy .settleDesk .settleDesk
    [(31 < s.argument 1 ∨ (∃ n ∈ nibbles (s.argumentBytes 2), 9 < n.toNat) ∨ 999 < s.argument 3,
      .argument)]) ∧
  ∀ s : State, s.Takes .settleDesk → s.charge.orders = [] →
    let d := s.argument 1
    let digits := nibbles (s.argumentBytes 2)
    let markup := s.argument 3
    let clear := s.argument 4 ≠ 0
    d < 32 → (∀ n ∈ digits, n.toNat ≤ 9) → markup ≤ 999 →
    let cap := digits.foldl (fun v n => 10 * v + n.toNat) 0
    let total := if s.argument 4 = 0 then s.deskTotal d else 0
    let charged := fun (l : LineNo) => (s.meterOf l).active = true ∧ (s.meterOf l).desk = d
    let live := ([0, 1, 2, 3] : List LineNo).foldl (fun v l => v +
      (if (s.meterOf l).active = true ∧ (s.meterOf l).desk = d
        then ((s.meterOf l).basis * (1000 + markup) + 5000) / 10000 else 0)) 0
    let reached := cap ≠ 0 ∧ cap ≤ total + live
    ∃ t, exec .settleDesk s = .next t ∧ t.request.take = s.request.take + 1 ∧
      t.dispatcher.lookPending = true ∧ t.deskCap d = cap ∧
      t.valueAt (deskOffset d + 8) 2 = markup ∧ (t.desk d).markup = markup ∧
      ((t.desk d).capped = true ↔ reached) ∧
      (¬ reached ∨ (s.desk d).capped = true → t.deskTotal d = total ∧
        (clear → t.deskCalls d = 0 ∧ t.deskPages d = 0) ∧ t.lines = s.lines ∧
        ∀ l, ¬ reached → (s.desk d).capped = true → charged l →
          t.meterOf l = { s.meterOf l with capPending := false }) ∧
      (∀ l, reached ∨ (s.desk d).capped = false ∨ ¬ charged l →
        (s.desk d).capped = true ∨ ¬ reached → t.meterOf l = s.meterOf l) ∧
      (reached → (s.desk d).capped = false →
        (s.request.unread + 2 ≤ 128 →
          (t.noticeAt s.request.produce).take 1 = [11] ∧
          (t.noticeAt s.request.produce).drop 2
            = [BitVec.ofNat 8 d, 0xFF] ++ leBytes 4 s.timeOfDay ++ bcd8 total ++ bcd8 live ∧
          (t.noticeAt (s.request.produce + 1)).take 2 = [0xD1, 0]) ∧
        ((∀ l, ¬ charged l) → t.deskTotal d = total ∧ t.lines = s.lines) ∧
        ∀ (l : LineNo) (c : Call) (f : OutgoingFacts), charged l → (∀ k, k ≠ l → ¬ charged k) →
          (s.line l).call = some c → c.out = some f →
          let x := s.line l
          let m := s.meterOf l
          (x.state = .linked → m.pageInProgress = true →
            t.meterOf l = { m with capPending := true } ∧ t.lines = s.lines) ∧
          (∀ k, x.state = .linked → m.pageInProgress = false → x.link = some k → k.sending = none →
            x.pump.sending = none →
            t.meterOf l = m ∧ t.line l = x.clears c k .capEnded ∧ t.lnContext l = none ∧
            ∀ n, n ≠ l → t.line n = s.line n) ∧
          (x.state = .clearing → t.meterOf l = m ∧ t.lines = s.lines) ∧
          (x.state = .seized ∨ x.state = .dialling ∨ x.state = .alerting → x.link = none → f.job < 16 →
            f.destination < 48 → f.destination < s.jobDestinations f.job →
            (s.job f.job).cancelling = false →
            t.line l = LineChannel.atRest x.held ∧ (t.meterOf l).active = false ∧
            (∀ n, n ≠ l → t.line n = s.line n) ∧
            (t.destination f.job f.destination).state = .pending ∧
            (t.destination f.job f.destination).lastOutcome = 26))

/-- METER, UNIT_EXPIRY and REVERSAL (R115, R119, R158, R160 to R163, R165, R166). The band in force is that of the
half hour in the Band Calendar, and setup charge, unit price and unit interval are the fields of the zone's entry;
that a zone above 15 has its entry at its place beyond the Zone Band Table is the model's (log 66). That the tables
and accounts read pass the turn of the arbiter on is the model's (log 11). For a desk whose cap is 0 or not reached:
a pulse is counted and priced, saturating at 65535; a unit starts when the last one ends, priced and timed by the
band in force; that the last one has ended is read by log 16. For a desk with no cap, the connect mark adds the
setup charge and the first unit. The Line Record is brought up to date. For an OPEN desk with one active meter whose
cap a pulse reaches: its account is written CAPPED, DESK CAPPED carries its total and live estimate, and its line is
marked cap pending while a page is in progress, clears with CAP ENDED where it is LINKED between pages, rests at
once before LINKED, the destination PENDING with its count unchanged, and is left as it is in CLEARING. -/
def Obligations.MetersCountPulsesAndUnits : Prop :=
  (∀ (s : State) (zone band : Nat),
    let entry := 0x1B00 + 32 * zone
    let digits := fun (ns : List Nibble) => ns.foldl (fun v d => 10 * v + min d.toNat 9) 0
    s.bandInForce = min (s.valueAt (0x1D00 + 48 * s.time.weekday + s.time.tenths / 18000) 1) 3 ∧
    s.setupCharge zone = digits ((nibbles (s.bytesAt entry 3)).drop 1) ∧
    s.unitPrice zone band = digits (nibbles (s.bytesAt (entry + 4 + 4 * band) 2)) ∧
    s.unitInterval zone band = max (digits (nibbles (s.bytesAt (entry + 6 + 4 * band) 2))) 1) ∧
  ∀ (s : State) (l : LineNo) (f : OutgoingFacts) (c : Call), s.path.hold = false → s.charge.orders = [] →
    (s.line l).call = some c → c.out = some f → (s.meterOf l).active = true →
    let x := s.line l
    let m := s.meterOf l
    let d := m.desk
    let with_ := fun (n : Meter) (read : Bool) => State.syncLines { s.setMeter l n with
      arbiter := if read then s.arbiter.granted .chargeUnit else s.arbiter }
    let price := s.unitPrice m.zone s.bandInForce
    let interval := BitVec.ofNat 32 (s.unitInterval m.zone s.bandInForce)
    let pulsed : Meter := if m.pulses = 65535 then m else { m with
      pulses := m.pulses + 1
      pulseRaw := min ((m.pulses + 1) * m.pulsePrice) 99999999
      saturated := m.saturated || decide (99999999 < (m.pulses + 1) * m.pulsePrice) }
    let unit := fun (due : BitVec 32) => ({ m with
      units := min (m.units + 1) 65535
      nextUnit := some (due + interval)
      localRaw := min (m.localRaw + price) 99999999
      saturated := m.saturated || decide (99999999 < m.localRaw + price) } : Meter)
    let short := fun (n : Meter) => s.deskCap d = 0 ∨
      s.deskTotal d + (s.setMeter l n).liveEstimate d < s.deskCap d
    (short pulsed → exec (.meter l) s = .next (with_ pulsed (!(s.desk d).capped))) ∧
    (∀ due, m.nextUnit = some due → (s.time.runClock - due).toNat < 2 ^ 31 → short (unit due) →
      exec (.unitExpiry l) s = .next (with_ (unit due) true)) ∧
    ((x.state = .dialling ∨ x.state = .alerting) →
      c.config.reversalSupervision = true → c.connect = none → m.connect = none → s.deskCap d = 0 →
      let setup := min (s.setupCharge m.zone) 99999999
      exec (.reversal l) s = .next (State.syncLines
        { (s.setLine l { x with call := some { c with connect := some s.now } }).setMeter l { m with
            connect := some s.now
            units := min (m.units + 1) 65535
            nextUnit := some (s.time.runClock + interval)
            localRaw := min (setup + price) 99999999
            saturated := m.saturated || decide (99999999 < s.setupCharge m.zone)
              || decide (99999999 < setup + price) } with
          arbiter := s.arbiter.granted .chargeUnit })) ∧
    (let live := ((if pulsed.chargePulses = true ∧ 0 < pulsed.pulses then pulsed.pulseRaw
        else pulsed.localRaw) * (1000 + (s.desk d).markup) + 5000) / 10000
     d < 32 → (s.desk d).capped = false → s.deskCap d ≠ 0 → s.deskCap d ≤ s.deskTotal d + live →
     (∀ k, k ≠ l → ¬ ((s.meterOf k).active = true ∧ (s.meterOf k).desk = d)) →
     s.path.state ≠ .pass → s.request.unread + 1 ≤ 128 →
     ∃ t, exec (.meter l) s = .next t ∧ (t.desk d).capped = true ∧ t.valueAt (0x1400 + 32 * d + 10) 1 = 1 ∧
       t.deskCap d = s.deskCap d ∧ (t.noticeAt s.request.produce).take 1 = [11] ∧
       (t.noticeAt s.request.produce).drop 2
         = [BitVec.ofNat 8 d, 0xFF] ++ leBytes 4 s.timeOfDay ++ bcd8 (s.deskTotal d) ++ bcd8 live ∧
       (x.state = .linked → m.pageInProgress = true →
         t.meterOf l = { pulsed with capPending := true } ∧ t.line l = x) ∧
       (∀ k, x.state = .linked → m.pageInProgress = false → x.link = some k → k.sending = none →
         x.pump.sending = none →
         t.meterOf l = pulsed ∧ t.line l = x.clears c k .capEnded ∧ t.lnContext l = none) ∧
       (x.state = .clearing → t.meterOf l = pulsed ∧ t.line l = x) ∧
       (x.state = .seized ∨ x.state = .dialling ∨ x.state = .alerting → x.link = none → f.job < 16 →
         f.destination < 48 → f.destination < s.jobDestinations f.job → (s.job f.job).cancelling = false →
         t.line l = LineChannel.atRest x.held ∧ (t.meterOf l).active = false ∧
         (t.destination f.job f.destination).state = .pending ∧
         (t.destination f.job f.destination).lastOutcome = 26 ∧
         (t.destination f.job f.destination).used = (s.destination f.job f.destination).used))

/-- A Line Record is written as one burst when a field has changed (R123): after a step's records are
brought up to date each record in DRAM is the line's, outside PASS, byte for byte (Table 7.4, Section 12.6),
and no other byte has changed; while a LOCKED sequence holds record writes back the host sees no byte changed
(R12). That the rate class and the coding are those in force (log 55), and that pages done above 65535 stand by
their low 16 bits (log 78), is the model's choice. -/
def Obligations.LineRecordsAreKeptUpToDate : Prop :=
  ∀ s : State, (∀ l f, (s.line l).outgoing = some f → f.number.length = 24) →
    (s.path.state = .pass → s.syncLines = s) ∧
    (s.path.state ≠ .pass → ∀ l : LineNo,
      let x := s.line l
      let m := s.meterOf l
      let byte := fun (v : Option Nat) => BitVec.ofNat 8 (v.getD 255)
      let out : Option OutgoingFacts := x.call.bind (fun c => c.out)
      let state := match x.state with
        | .idle => 0
        | .ringing => 1
        | .seized => 2
        | .dialling => 3
        | .alerting => 4
        | .linked => 5
        | .clearing => 6
        | .resting => 7
      let phase := fun (k : Link) => match k.phase with
        | .awaitOffer => 0
        | .choosing => 1
        | .checkingCaller => 2
        | .awaitReady => 3
        | .sending => 4
        | .awaitVerdict => 5
        | .tone => 6
        | .offering => 7
        | .checkingAnswerer => 8
        | .receiving => 9
        | .finishing => 10
      let coding := fun (k : Link) => k.coding.map (fun c => match c with
        | .plain => 0
        | .reference n => n)
      s.syncLines.bytesAt (0x1F00 + 64 * l.val) 64
        = [BitVec.ofNat 8 state, byte (x.call.map (fun c => if c.out.isSome then 1 else 0)),
           BitVec.ofNat 8 ((x.call.map (fun c => c.rings)).getD 0),
           byte (if x.state = .linked then x.link.map phase else none), byte (out.map (fun f => f.job)),
           byte (out.map (fun f => f.destination)), byte (out.map (fun f => f.desk)),
           byte (x.link.bind (fun k => k.rate)), byte (x.link.bind coding), 0]
          ++ leBytes 2 ((x.link.map (fun k => k.done)).getD 0)
          ++ (match out with
              | some f => packNibbles f.number
              | none => List.replicate 12 0xFF)
          ++ leBytes 4 (match x.call.bind (fun c => c.connect) with
              | some y => timeWord y.weekday y.tenths
              | none => 0)
          ++ (if m.active then leBytes 2 m.units ++ leBytes 2 m.pulses ++ bcd8 m.localRaw ++ bcd8 m.pulseRaw
              else List.replicate 12 0)
          ++ List.replicate 24 0) ∧
    s.syncLines = { s with memory := s.syncLines.memory, arbiter := s.syncLines.arbiter } ∧
    (s.path.hold = false → s.syncLines.arbiter.held = s.arbiter.held ∧
      s.syncLines.arbiter.hidden = s.arbiter.hidden) ∧
    (s.path.hold = true → ∀ a, s.syncLines.hostByte a = s.hostByte a) ∧
    ∀ a, (a < s.regionBase + 0x1F00 ∨ s.regionBase + 0x2000 ≤ a) →
      s.syncLines.memory.read a = s.memory.read a

/-! ### Printing (Chapter 11) -/

/-- PRINT_PAGE and CANCEL_PRINT (R53, R173, R174, R176, R178): the refusals of each in order; an accepted item
enters the lowest EMPTY slot with the entry count, a Reference is taken, and an IDLE unit with an empty queue
begins its copy; a WAITING item that is cancelled leaves at once, and a PRINTING one is marked, its copy going
to the cut when no line is in the buffer. -/
def Obligations.PrintRequests : Prop :=
  (∀ s : State,
    let n := s.argument 1
    let copies := s.argument 2
    (s.Takes .printPage → s.refusedBy .printPage .printPage
      [(127 < n ∨ copies < 1 ∨ 99 < copies, .argument),
       (s.pageState n ≠ .sealed, .noPage),
       ((∀ m, m < 32 → (s.slot m).state ≠ some .empty) ∨ s.store.taking = false ∨ 250 < s.references n,
         .full)]) ∧
    (s.Takes .cancelPrint → s.refusedBy .cancelPrint .cancelPrint
      [(31 < n, .argument),
       (((s.slot n).state ≠ some .waiting ∧ (s.slot n).state ≠ some .printing) ∨ (s.slot n).cancelled = true,
         .state)])) ∧
  (∀ (s : State) (n : Nat), s.Takes .printPage → s.store.taking = true →
    let p := s.argument 1
    p ≤ 127 → 1 ≤ s.argument 2 → s.argument 2 ≤ 99 → s.pageState p = .sealed → s.references p ≤ 250 →
    n < 32 → (s.slot n).state = some .empty → (∀ m, m < n → (s.slot m).state ≠ some .empty) →
    ∃ t, exec .printPage s = .next t ∧ t.references p = s.references p + 1 ∧
      t.print.entryCount = min (s.print.entryCount + 1) 4294967295 ∧
      t.request.take = s.request.take + 1 ∧ (t.slot n).page = p ∧ (t.slot n).copies = s.argument 2 ∧
      (t.slot n).copiesDone = 0 ∧ (t.slot n).entry = s.print.entryCount % 2 ^ 32 ∧
      ((t.slot n).urgent = true ↔ s.argument 3 ≠ 0) ∧ (t.slot n).auto = false ∧
      (t.slot n).cancelled = false ∧
      (s.print.state ≠ .idle → (t.slot n).state = some .waiting ∧ t.print.state = s.print.state) ∧
      (s.print.state = .idle → s.waitingSlots = [] → s.pageLines p ≠ 0 →
        (t.slot n).state = some .printing ∧ t.print.state = .printing ∧ t.print.current = some n ∧
        t.engine.pr = some { page := p, next := 0
                             pos := { leaf := s.firstLeaf p, chain := 0, offset := 0 }
                             reference := 0, errorBelow := 0 })) ∧
  ∀ (s : State) (n : Nat), s.Takes .cancelPrint → s.argument 1 = n → n < 32 →
    (s.slot n).cancelled = false →
    ((s.slot n).state = some .waiting → (s.slot n).page < 128 →
      ∃ t, exec .cancelPrint s = .next t ∧ t.slot n = Slot.cleared ∧
        t.references (s.slot n).page = s.references (s.slot n).page - 1 ∧
        t.request.take = s.request.take + 1 ∧ t.print = s.print) ∧
    ((s.slot n).state = some .printing →
      ∃ t, exec .cancelPrint s = .next t ∧ t.slot n = { s.slot n with cancelled := true } ∧
        t.request.take = s.request.take + 1 ∧
        (s.print.state = .printing → s.print.buffer = none →
          t.print.state = .cutting ∧ t.engine.pr = none) ∧
        (s.print.buffer ≠ none → t.print = s.print ∧ t.engine = s.engine))

/-- PR_GRANT, PRINT_LINE_DONE, CUT_DONE, CUT_TIMEOUT, PAPER_LOSS and PAPER_RETURN (R66, R75, R173, R176, R177, R179,
R180): the next line of the copy is decoded into the buffer; a line done shifts its even pixels into Chain A and its
odd ones into Chain B, Chain A is strobed and then Chain B and the paper steps, all of it twice for a DRAFT line,
and the last line of a copy or of a through-print that has ended goes to the cut. A copy cut is counted; a finished
item leaves with PRINT DONE and its Reference, and another goes back to WAITING; with paper the item at the head of
the queue then begins its copy, which may be the same item's next one. A loss of paper in PRINTING abandons the
copy, and its return takes the head of the queue. That a loss of paper in THROUGH empties the head line buffer is
the model's reading (log 27); that the unit's reads of its queue and of the page's record pass no turn of the
arbiter is its choice (log 93). -/
def Obligations.CopiesAreBurntAndCut : Prop :=
  (∀ (s : State) (k : Fin 7) (f : DecodeFrame), s.path.hold = false → s.engineChoice = some (k, .pr) →
    s.engine.pr = some f →
    exec .prGrant s = .next { s with
      engine := { s.engine with pr := some (s.decodeNext f).frame, turns := s.engine.turns.set k 6 }
      print := { s.print with buffer := some (s.decodeNext f).pixels } }) ∧
  (∀ (s : State) (x : Raster), s.path.hold = false → s.print.buffer = some x →
    ∃ a b : BitVec 896, (∀ i, i < 896 → a.getMsbD i = x.getMsbD (2 * i) ∧
        b.getMsbD i = x.getMsbD (2 * i + 1)) ∧
      let burnt := fun (r : Resolution) (y : PrintState) => ({ s with print := { s.print with
        chainA := a
        chainB := b
        lineActs := if r = .draft
          then [.shift, .strobeA, .strobeB, .step, .shift, .strobeA, .strobeB, .step]
          else [.shift, .strobeA, .strobeB, .step]
        paperSteps := s.print.paperSteps + (if r = .draft then 2 else 1)
        buffer := none
        state := y } } : State)
      (∀ n f, s.print.state = .printing → s.print.current = some n → (s.slot n).cancelled = false →
        s.engine.pr = some f → exec .printLineDone s = .next (burnt (s.pageResolution (s.slot n).page)
          (if s.pageLines f.page ≤ f.next then .cutting else .printing))) ∧
      (s.print.state = .through → (s.print.throughEnded = true → s.print.paper = true) →
        exec .printLineDone s = .next (burnt s.print.throughResolution
          (if s.print.throughEnded then .cutting else .through)))) ∧
  (∀ (s : State) (c : Instr), c = .cutDone ∨ c = .cutTimeout → s.path.hold = false →
    s.print.state = .cutting →
    (s.print.current = none → s.print.paper = true → s.waitingSlots = [] → exec c s = .next { s with
      print := { s.print with state := .idle, owner := none, throughEnded := false } }) ∧
    ∀ n, s.print.current = some n → n < 32 → (s.slot n).cancelled = false → (s.slot n).page < 128 →
      (s.slot n).state = some .printing →
      let done := (s.slot n).copiesDone + 1
      ((s.slot n).copies ≤ done → ∃ t, exec c s = .next t ∧ (t.slot n).state = some .empty ∧
        (s.waitingSlots = [] → t.references (s.slot n).page = s.references (s.slot n).page - 1 ∧
          t.engine.pr = none ∧ t.print.current = none ∧
          t.print.state = if s.print.paper then .idle else .paperWait) ∧
        (2 ≤ s.references (s.slot n).page → s.path.state ≠ .pass → s.request.unread + 2 ≤ 128 →
          t.noticeAt s.request.produce = [12, 32, BitVec.ofNat 8 (s.slot n).page, 0xFF]
            ++ leBytes 4 s.timeOfDay ++ leBytes 4 n ++ leBytes 4 done ∧
          ∀ m, s.print.paper = true → s.isRunning = true → s.HeadIs m →
            s.pageState (s.slot m).page ≠ .dropped → CopyBegun s t m)) ∧
      (done < (s.slot n).copies → s.print.paper = false → ∃ t, exec c s = .next t ∧
        t.slot n = { s.slot n with state := some .waiting, copiesDone := done } ∧
        t.engine.pr = none ∧ t.print = { s.print with state := .paperWait, current := none, owner := none,
                                                      throughEnded := false }) ∧
      (done < (s.slot n).copies → s.print.paper = true → s.isRunning = true →
        s.pageState (s.slot n).page ≠ .dropped →
        (∀ m, m < 32 → (s.slot m).state = some .waiting → s.leads n m) → ∃ t, exec c s = .next t ∧
          t.slot n = { s.slot n with copiesDone := done } ∧
          t.print.current = some n ∧ t.print.paperSteps = 0 ∧
          t.print.state = (if s.pageLines (s.slot n).page = 0 then .cutting else .printing) ∧
          t.engine.pr = some { page := (s.slot n).page, next := 0
                               pos := { leaf := s.firstLeaf (s.slot n).page, chain := 0, offset := 0 }
                               reference := 0, errorBelow := 0 }) ∧
      (∀ m, done < (s.slot n).copies → s.print.paper = true → s.isRunning = true → s.HeadIs m →
        s.leads m n → s.pageState (s.slot m).page ≠ .dropped → ∃ t, exec c s = .next t ∧
          t.slot n = { s.slot n with state := some .waiting, copiesDone := done } ∧ CopyBegun s t m)) ∧
  (∀ s : State, s.path.hold = false → s.print.paper = true → s.isRunning = true →
    (s.print.state = .idle → exec .paperLoss s
      = .next ({ s with print := { s.print with paper := false, state := .paperWait } }.raise
          { kind := .paperOut, subject := [0xFF, 0xFF], value1 := some 0xFFFFFFFF })) ∧
    (∀ l, s.print.state = .through → s.print.throughEnded = false → s.print.owner = some l →
      exec .paperLoss s = .next ({ s with print := { s.print with paper := false, buffer := none } }.raise
        { kind := .paperOut, subject := [0xFF, 0xFF], value1 := some l.val })) ∧
    ∀ n, s.print.state = .printing → s.print.current = some n → n < 32 → (s.slot n).cancelled = false →
      ∃ t, exec .paperLoss s = .next t ∧ t.slot n = { s.slot n with state := some .waiting } ∧
        t.engine.pr = none ∧ t.print = { s.print with paper := false, state := .paperWait, current := none,
                                                      buffer := none }) ∧
  ∀ s : State, s.path.hold = false → s.print.paper = false → s.isRunning = true →
    (s.print.state = .paperWait → s.waitingSlots = [] → exec .paperReturn s
      = .next { s with print := { s.print with paper := true, state := .idle } }) ∧
    (∀ n, s.print.state = .paperWait → s.HeadIs n → s.pageState (s.slot n).page ≠ .dropped →
      ∃ t, exec .paperReturn s = .next t ∧ t.print.paper = true ∧ CopyBegun s t n) ∧
    (s.print.state ≠ .paperWait → exec .paperReturn s
      = .next { s with print := { s.print with paper := true } })

/-! ### Line coding (Chapter 4) -/

/-- The Length Word of every run (R59): n zero bits and then the n + 1 bits of r + 1, most significant
first, where n is the floor of its logarithm, 2n + 1 bits in all; a decoder reads any value of the n-zero
form back as the run, one beyond 1792 included, and reads an eleventh zero as a decode error. -/
def Obligations.LengthWordsNameTheirRuns : Prop :=
  (∀ r, r ≤ 1792 → ∃ n, n ≤ 10 ∧ 2 ^ n ≤ r + 1 ∧ r + 1 < 2 ^ (n + 1) ∧
    (lengthWord r).length = 2 * n + 1 ∧
    lengthWord r = List.replicate n false ++ (List.range (n + 1)).map (fun i => (r + 1).testBit (n - i))) ∧
  (∀ (n v k : Nat) (get : BitSource), n ≤ 10 → 2 ^ n ≤ v → v < 2 ^ (n + 1) →
    (∀ i, i < n → get (k + i) = some false) →
    (∀ i, i ≤ n → get (k + n + i) = some (v.testBit (n - i))) →
    readLengthWord get k = some (v - 1, k + 2 * n + 1)) ∧
  ∀ (k : Nat) (get : BitSource), (∀ i, i < 11 → get (k + i) = some false) → readLengthWord get k = none

/-- Decode of encode (R60 to R62, R64): whatever the coding, the line, its reference and the bits that
follow it, the coder's bits are read back as the line, and the reading ends where they end; a line is at
most 5377 bits in PLAIN and 5378 in REFERENCE K; and a line cut short is a line error. -/
def Obligations.CodedLinesAreReadBack : Prop :=
  ∀ (coding : Coding) (forced : Bool) (x reference : Raster),
    let bits := (codeLine coding forced x reference).bits
    (∀ rest : List Bool,
      readLine coding (fun k => (bits ++ rest)[k]?) 0 reference = some (x, bits.length)) ∧
    bits.length ≤ (if coding = .plain then 5377 else 5378) ∧
    ∀ n, n < bits.length → readLine coding (fun k => (bits.take n)[k]?) 0 reference = none

/-- The check (R68): a 16-bit register that starts at all ones, through which the bits of each byte go, most
significant first, by x^16 + x^12 + x^5 + 1; its last value stands after the bytes, high byte first, in a
Parcel after its header and its padded payload, and in a link frame after its kind and fields. -/
def Obligations.ParcelsAndFramesCarryTheCheck : Prop :=
  ∃ register : List Bool → BitVec 16, register [] = 0xFFFF ∧
    (∀ bits b, register (bits ++ [b]) = (register bits <<< 1) ^^^
      (if ((register bits).getLsbD 15 != b) = true then 0x1021 else 0)) ∧
    let stream := fun (bytes : List Byte) => bytes.flatMap (fun b => (List.range 8).map b.getMsbD)
    let checked := fun (bytes : List Byte) => bytes ++
      [BitVec.ofNat 8 ((register (stream bytes)).toNat / 256),
       BitVec.ofNat 8 ((register (stream bytes)).toNat % 256)]
    (∀ (p : OpenParcel) (seq : Byte), ∃ payload : List Byte,
      payload.length = (p.bits.length + 7) / 8 ∧
      stream payload = p.bits ++ List.replicate (8 * payload.length - p.bits.length) false ∧
      p.bytes seq = checked ([seq, BitVec.ofNat 8 (p.first / 256), BitVec.ofNat 8 p.first,
        BitVec.ofNat 8 p.lines, BitVec.ofNat 8 (p.bits.length / 256), BitVec.ofNat 8 p.bits.length]
          ++ payload)) ∧
    ∀ f : Frame, f.bytes = checked (f.kind :: f.fields)

/-! ### Dialling and the ends of calls (Chapter 7) -/

/-- DIAL_TONE, BLIND_WAIT_EXPIRY, DIGIT_SENT, PAUSE_EXPIRY, INTERDIGIT_EXPIRY, PULSE_BREAK_EXPIRY and
PULSE_MAKE_EXPIRY (R107, R111 to R114, R118): when a wait or a nibble is finished the next nibble of the
prefix and then of the number is taken, on a PULSE line past any A and B: C pauses 2.0 s, D waits for dial
tone or pauses in BLIND mode, a digit is handed to the pump on a TONE line and begun as its breaks on a
PULSE line, and at the end of the number the line is ALERTING under its answer timeout. A break is followed
by its make, a make by the next break or by the 700 ms gap, and LOOP is disregarded meanwhile. -/
def Obligations.NumbersAreDialled : Prop :=
  (∀ (s : State) (l : LineNo) (c : Call) (f : OutgoingFacts) (i : Instr) (n k : Nat), s.Quiet →
    (s.line l).call = some c → c.out = some f → s.dialsOn l c i n → n ≤ k →
    let nibbles := c.config.dialPrefix ++ dialledPart f.number
    (∀ m, n ≤ m → m < k → c.config.pulse = true ∧ (nibbles[m]? = some 10 ∨ nibbles[m]? = some 11)) →
    let x := { s.line l with state := LineState.dialling, call := some { c with dialled := k } }
    (nibbles[k]? = none → exec i s = s.becomes l { s.line l with
      state := .alerting
      call := some { c with dialled := k }
      timer := some { kind := .answer, ms := 1000 * c.config.answerSeconds } }) ∧
    (nibbles[k]? = some 12 → exec i s = s.becomes l { x with timer := some { kind := .pause, ms := 2000 } }) ∧
    (nibbles[k]? = some 13 → exec i s = s.becomes l { x with
      timer := if c.config.blind then some { kind := .pause, ms := 2000 }
        else some { kind := .dialTone, ms := 5000 } }) ∧
    ∀ d, nibbles[k]? = some d → d.toNat < 12 →
      (c.config.pulse = false → exec i s = s.becomes l { x with
        timer := some { kind := .digitSent, ms := 2000 }
        pump := { (s.line l).pump with command := some (.sendDigit d) } }) ∧
      (c.config.pulse = true → d.toNat < 10 → exec i s = s.becomes l { x with
        call := some { c with dialled := k, breaks := if d = 0 then 10 else d.toNat }
        offHook := false
        timer := some { kind := .pulseBreak, ms := 60 } })) ∧
  ∀ (s : State) (l : LineNo) (c : Call), s.Quiet → (s.line l).call = some c →
    (s.timerIs l .pulseBreak = true →
      exec (.pulseBreakExpiry l) s = s.becomes l { s.line l with
        offHook := true, timer := some { kind := .pulseMake, ms := 40 } } ∧
      exec (.loopLost l) s = .next s.syncLines) ∧
    (s.timerIs l .pulseMake = true →
      exec (.loopLost l) s = .next s.syncLines ∧
      (2 ≤ c.breaks → exec (.pulseMakeExpiry l true) s = s.becomes l { s.line l with
        call := some { c with breaks := c.breaks - 1 }
        offHook := false
        timer := some { kind := .pulseBreak, ms := 60 } }) ∧
      (c.breaks = 1 → exec (.pulseMakeExpiry l true) s = s.becomes l { s.line l with
        call := some { c with breaks := 0 }, timer := some { kind := .interdigit, ms := 700 } }))

/-- DIAL_TONE_TIMEOUT, DIGIT_SENT_TIMEOUT, ANSWER_TIMEOUT, BUSY_TONE, LOOP_LOST, LOOP_SETTLE_EXPIRY,
PULSE_MAKE_EXPIRY without current and ABORT_LINE before the call is LINKED (R111 to R114, R118, R120, R121,
R152, R163, R164, R167, R169), for a desk with no cap: the line rests at once, the meter is stopped, the
charge billed, the call logged byte for byte in the slot of its sequence (Table 12.8), and the destination
takes the outcome. Loop current that is there in time lets the call go on. An ABORT LINE is refused for a line
above 3 and for one that is IDLE, RINGING or RESTING. That the bits of the record's flags byte that the table
leaves unlisted are zero is the model's choice (log 82). -/
def Obligations.UnansweredCallsEnd : Prop :=
  (∀ s : State, s.Takes .abortLine →
    let x := s.line (Fin.ofNat 4 (s.argument 1))
    s.refusedBy .abortLine .abortLine
      [(3 < s.argument 1, .argument),
       (x.state = .idle ∨ x.state = .ringing ∨ x.state = .resting, .state)]) ∧
  (∀ (s : State) (l : LineNo), s.Quiet → (s.line l).settling = true →
    exec (.loopSettleExpiry l true) s = s.becomes l { s.line l with settling := false }) ∧
  ∀ (s : State) (l : LineNo) (c : Call) (f : OutgoingFacts) (i : Instr) (o : CallOutcome), s.Quiet →
    (s.line l).call = some c → c.out = some f → (s.line l).link = none →
    (s.line l).state = .seized ∨ (s.line l).state = .dialling ∨ (s.line l).state = .alerting →
    s.callEnder l i o ∨ (i = .abortLine ∧ o = .aborted ∧ s.Takes .abortLine ∧ s.argument 1 = l.val) →
    (s.meterOf l).desk < 32 → s.deskCap (s.meterOf l).desk = 0 → f.job < 16 → f.destination < 48 →
    (∃ d, d < s.jobDestinations f.job ∧ d < 48 ∧ d ≠ f.destination ∧
      (s.destination f.job d).state = .pending) →
    let m := s.meterOf l
    let d := s.destination f.job f.destination
    let byPulses := m.chargePulses = true ∧ 0 < m.pulses
    let basis := if byPulses then m.pulseRaw else m.localRaw
    let markup := (s.desk m.desk).markup
    let bill := (basis * (1000 + markup) + 5000) / 10000
    let used := if o = .aborted then d.used else d.used + 1
    used < 10 →
    ∃ t, exec i s = .next t ∧ t.line l = LineChannel.atRest (s.line l).held ∧
      (∀ k, k ≠ l → t.line k = s.line k) ∧ t.lnContext l = none ∧
      t.meterOf l = { m with active := false, nextUnit := none, capPending := false,
                             pageInProgress := false } ∧
      t.deskTotal m.desk = min (s.deskTotal m.desk + bill) 99999999 ∧
      t.deskCalls m.desk = min (s.deskCalls m.desk + 1) 65535 ∧
      t.charge.sequence = s.charge.sequence + 1 ∧
      (f.number.length = 24 →
        t.bytesAt (0x16000 + 64 * (s.charge.sequence.toNat % 256)) 64
          = leBytes 4 s.charge.sequence.toNat
            ++ [BitVec.ofNat 8 (l.val + 4 + (if byPulses then 8 else 0) + if m.saturated then 16 else 0),
                BitVec.ofNat 8 m.desk, BitVec.ofNat 8 m.job, BitVec.ofNat 8 m.destination,
                BitVec.ofNat 8 m.zone, BitVec.ofNat 8 o.code]
            ++ leBytes 2 markup ++ packNibbles f.number
            ++ leBytes 4 (timeWord m.seizure.weekday m.seizure.tenths)
            ++ leBytes 4 (match m.connect with
                | some x => timeWord x.weekday x.tenths
                | none => 0)
            ++ leBytes 4 s.timeOfDay ++ leBytes 2 m.units ++ leBytes 2 m.pulses ++ bcd8 m.localRaw
            ++ bcd8 m.pulseRaw ++ bcd8 bill ++ [0, 0] ++ List.replicate 10 0xFF) ∧
      (i = .abortLine → t.request.take = s.request.take + 1) ∧
      t.destination f.job f.destination = { d with
        state := if (s.job f.job).cancelling = true then .cancelled
          else if o ≠ .aborted ∧ s.jobAttempts f.job ≤ used then .failed else .pending
        used := used
        lastOutcome := o.code
        nextTry := if o = .aborted then d.nextTry
          else (s.time.runClock.toNat + 600 * s.jobGap f.job) % 2 ^ 32
        line := 255
        sequence := some s.charge.sequence.toNat }

/-- FAREWELL_TIMEOUT, the FRAME_SENT of a FAREWELL and ABORT_LINE in CLEARING (R120, R121): the hook goes on and a
caller rests, its call logged with the outcome fixed before; a LOOP_LOST in CLEARING is disregarded (R118). The part
half of the destination takes that outcome whole (R132, R151, R152, Table 9.4): the pages confirmed are added for
SENT, PARTIAL and CAP ENDED, and for PARTIAL and CAP ENDED the resume index moves on by them and the start rate
becomes the rate class in force; every other outcome leaves the Attempt Image. It is stated where its fields hold
the sums (beyond them: log 79). LOOP_LOST, LOOP_SETTLE_EXPIRY without current and ABORT_LINE in LINKED (R118, R120,
R121, R132): a caller's call ends LINE DROPPED or ABORTED without a FAREWELL, the Attempt Image as it was, a page in
progress losing its transmitting Reference. The same events, TONE_PLAYED_TIMEOUT, CARRIER_LOST, PAGE_GAP_EXPIRY,
FAREWELL and the fourth FRAME_WAIT_EXPIRY (R127, R133, R134, R142): an answerer's call ends LINE DROPPED, ABORTED,
TIMEOUT or RECEIVED. Each clause that puts the line at rest (`LineChannel.atRest`, here and in `incomingEnds`)
leaves its Pump Link idle even where a send is in progress, at the FAREWELL_TIMEOUT, a loss of loop, an ABORT_LINE
and an answerer's end: that such a send counts as ended at hook-on is the model's choice (log 63: DESIGN CHOICE,
unsafe). The Call Log's bytes of pages confirmed and pages resent hold the low 8 bits of the counts, which is the
model's choice above 255 (log 67). -/
def Obligations.LinkedCallsEnd : Prop :=
  (∀ (s : State) (l : LineNo) (c : Call) (f : OutgoingFacts) (o : CallOutcome) (i : Instr), s.Quiet →
    (s.line l).state = .clearing → (s.line l).call = some c → c.out = some f → c.outcome = some o →
    (i = .farewellTimeout l ∧ s.timerIs l .farewell = true) ∨
      (i = .frameSent l ∧ (s.line l).pump.sending = some (.sendFrame .farewell)) ∨
      (i = .abortLine ∧ s.Takes .abortLine ∧ s.argument 1 = l.val) →
    (s.meterOf l).desk < 32 → s.deskCap (s.meterOf l).desk = 0 →
    (f.job < 16 ∧ f.destination < 48 ∧ ∃ d, d < s.jobDestinations f.job ∧ d < 48 ∧ d ≠ f.destination ∧
      (s.destination f.job d).state = .pending) →
    ∃ t, exec i s = .next t ∧ t.line l = LineChannel.atRest (s.line l).held ∧
      (t.meterOf l).active = false ∧ t.charge.sequence = s.charge.sequence + 1 ∧
      t.valueAt (0x16000 + 64 * (s.charge.sequence.toNat % 256) + 9) 1 = o.code ∧
      (i = .abortLine → t.request.take = s.request.take + 1) ∧
      (t.destination f.job f.destination).lastOutcome = o.code ∧
      (t.destination f.job f.destination).line = 255 ∧
      ∀ k, (s.line l).link = some k →
        t.valueAt (0x16000 + 64 * (s.charge.sequence.toNat % 256) + 0x34) 1 = k.confirmed % 256 ∧
        t.valueAt (0x16000 + 64 * (s.charge.sequence.toNat % 256) + 0x35) 1 = k.resent % 256 ∧
        let d := s.destination f.job f.destination
        let moved := o = .partly ∨ o = .capEnded
        let counted := o = .busy ∨ o = .noAnswer ∨ o = .noTone ∨ o = .timeout ∨ o = .lineDropped ∨
          o = .partly ∨ o = .failedRate
        let used := if counted then d.used + 1 else d.used
        (o ≠ .lineTaken → o ≠ .received → used < 10 → d.confirmed + k.confirmed < 256 →
          d.resume + k.confirmed < 256 → (∀ r, k.rate = some r → r < 16) →
          t.destination f.job f.destination = { d with
            state := if (s.job f.job).cancelling = true ∧ o ≠ .sent then .cancelled
              else if o = .sent then .sent
              else if o = .refused then .failed
              else if o = .cancelled then .cancelled
              else if counted ∧ s.jobAttempts f.job ≤ used then .failed
              else .pending
            used := used
            startRate := if moved then k.rate.getD d.startRate else d.startRate
            lastOutcome := o.code
            nextTry := if counted then (s.time.runClock.toNat + 600 * s.jobGap f.job) % 2 ^ 32
              else d.nextTry
            confirmed := if o = .sent ∨ moved then d.confirmed + k.confirmed else d.confirmed
            resent := min (d.resent + k.resent) 255
            resume := if moved then d.resume + k.confirmed else d.resume
            line := 255
            sequence := some s.charge.sequence.toNat })) ∧
  (∀ (s : State) (l : LineNo), s.Quiet → (s.line l).state = .clearing →
    exec (.loopLost l) s = .next s.syncLines) ∧
  (∀ (s : State) (l : LineNo) (c : Call) (k : Link) (f : OutgoingFacts) (o : CallOutcome) (i : Instr),
    s.LinkedWith l c k → c.out = some f → s.linkEnder l i o →
    (∀ x, k.sending = some x → x.page < 128 ∧ 2 ≤ s.references x.page) →
    (s.meterOf l).desk < 32 → s.deskCap (s.meterOf l).desk = 0 →
    (f.job < 16 ∧ f.destination < 48 ∧ ∃ d, d < s.jobDestinations f.job ∧ d < 48 ∧ d ≠ f.destination ∧
      (s.destination f.job d).state = .pending) →
    ∃ t, exec i s = .next t ∧ t.line l = LineChannel.atRest (s.line l).held ∧ t.lnContext l = none ∧
      (t.meterOf l).active = false ∧ t.charge.sequence = s.charge.sequence + 1 ∧
      t.valueAt (0x16000 + 64 * (s.charge.sequence.toNat % 256) + 9) 1 = o.code ∧
      t.valueAt (0x16000 + 64 * (s.charge.sequence.toNat % 256) + 0x34) 1 = k.confirmed % 256 ∧
      (i = .abortLine → t.request.take = s.request.take + 1) ∧
      (t.destination f.job f.destination).lastOutcome = o.code ∧
      (t.destination f.job f.destination).confirmed = (s.destination f.job f.destination).confirmed ∧
      (t.destination f.job f.destination).resume = (s.destination f.job f.destination).resume ∧
      (t.destination f.job f.destination).startRate = (s.destination f.job f.destination).startRate ∧
      (t.destination f.job f.destination).line = 255 ∧
      ∀ x, k.sending = some x → x.referenced = true →
        t.references x.page = s.references x.page - 1) ∧
  ∀ (s : State) (l : LineNo) (c : Call) (k : Link), s.LinkedWith l c k → c.out = none →
    (∀ i o, s.linkEnder l i o → incomingEnds s l o.code (exec i s)) ∧
    (s.timerIs l .frameWait = true → 3 ≤ k.repeats → incomingEnds s l 21 (exec (.frameWaitExpiry l) s)) ∧
    (s.timerIs l .tonePlayed = true → incomingEnds s l 21 (exec (.tonePlayedTimeout l) s)) ∧
    (∀ x, k.page = some x → k.phase = .receiving → x.ending = none → (s.line l).pump.sending = none →
      incomingEnds s l 22 (exec (.carrierLost l) s)) ∧
    (s.timerIs l .pageGap = true →
      ((k.page = none ∧ ∃ v, k.lastVerdict = some v ∧ v.judgement = .good ∧ v.last = true) →
        incomingEnds s l 29 (exec (.pageGapExpiry l) s)) ∧
      (¬ (k.page = none ∧ ∃ v, k.lastVerdict = some v ∧ v.judgement = .good ∧ v.last = true) →
        incomingEnds s l 21 (exec (.pageGapExpiry l) s))) ∧
    (k.phase = .offering ∨ k.phase = .receiving ∨ k.phase = .finishing → (s.line l).pump.sending = none →
      incomingEnds s l 29 (exec (.farewell l (Frame.farewell.bytes.drop 1)) s))

/-- RING_START, RING_END, RING_GAP_EXPIRY, REST_EXPIRY and ANSWER_TONE (R114 to R117, R120, R126, R147): a
ring begins RINGING on a line that is not OUT, is counted up to 9, or is glare on a SEIZED line that answers;
the end of a counted burst starts the 8.0 s gap or answers the call; the gap's expiry and the rest's lead to
IDLE; an answer tone in ALERTING makes the line a LINKED caller, connect marked
once, at the start rate as it stands (outside 1 to 4 the model's choice, log 73). -/
def Obligations.RingsAndTonesAreTaken : Prop :=
  ∀ (s : State) (l : LineNo), s.Quiet →
    let x := s.line l
    let idle := { LineChannel.reset with held := x.held }
    let incoming := fun (t : State) (rings : Nat) => t.raise
      { kind := .incoming, subject := [BitVec.ofNat 8 l.val, 0xFF], value1 := some rings }
    (x.state = .idle → s.isRunning = true → x.held.direction ≠ .outgoing →
      exec (.ringStart l) s = s.becomes l { x with
        state := .ringing
        call := some { out := none, config := x.held, dialled := 0, breaks := 0, rings := 1,
                       seizure := s.now, connect := none, outcome := none } }) ∧
    (x.state = .idle → x.held.direction = .outgoing → exec (.ringStart l) s = .next s.syncLines) ∧
    (∀ c, x.state = .ringing → x.call = some c →
      exec (.ringStart l) s = s.becomes l { x with
        call := some { c with rings := min (c.rings + 1) 9 }, timer := none } ∧
      (x.timer = none → (c.config.answerRings = 0 ∨ c.rings < c.config.answerRings) →
        exec (.ringEnd l) s = s.becomes l { x with timer := some { kind := .ringGap, ms := 8000 } }) ∧
      (x.timer = none → 1 ≤ c.config.answerRings → c.config.answerRings ≤ c.rings →
        exec (.ringEnd l) s = .next (State.syncLines (incoming (State.setLn (s.setLine l { x with
          state := .linked
          offHook := true
          settling := true
          timer := some { kind := .tonePlayed, ms := 6000 }
          call := some { c with seizure := s.now, connect := some s.now }
          link := some (Link.start .tone none)
          pump := { x.pump with command := some .playTone } }) l (some LineContext.start)) c.rings)))) ∧
    (s.timerIs l .ringGap = true → exec (.ringGapExpiry l) s = s.becomes l idle) ∧
    (s.timerIs l .rest = true → exec (.restExpiry l) s
      = State.becomes { s with dispatcher := { s.dispatcher with lookPending := true } } l idle) ∧
    (∀ c f, x.state = .seized → x.call = some c → c.out = some f → c.config.direction = .both →
      1 ≤ c.config.answerRings → f.job < 16 → f.destination < 48 →
      f.destination < s.jobDestinations f.job → (s.job f.job).cancelling = false →
      ∃ t, exec (.ringStart l) s = .next t ∧
        t.line l = { x with
          state := .linked
          offHook := true
          settling := true
          timer := some { kind := .tonePlayed, ms := 6000 }
          call := some { c with out := none, dialled := 0, breaks := 0, rings := 1, connect := some s.now }
          link := some (Link.start .tone none)
          pump := { x.pump with command := some .playTone } } ∧
        t.lnContext l = some LineContext.start ∧ (t.meterOf l).active = false ∧
        (t.destination f.job f.destination).state = .pending ∧
        (t.destination f.job f.destination).used = (s.destination f.job f.destination).used ∧
        (t.destination f.job f.destination).lastOutcome = 25) ∧
    ∀ c f, x.state = .alerting → x.call = some c → c.out = some f → s.deskCap (s.meterOf l).desk = 0 →
      ∃ t, exec (.answerTone l) s = .next t ∧
        t.line l = { x with
          state := .linked
          timer := some { kind := .frameWait, ms := 6000 }
          call := some { c with connect := some (c.connect.getD s.now) }
          link := some (Link.start .awaitOffer (some f.startRate)) } ∧
        t.lnContext l = some LineContext.start ∧
        (c.connect = none → (s.meterOf l).active = true → (s.meterOf l).connect = none →
          (t.meterOf l).connect = some s.now ∧ (t.meterOf l).units = min ((s.meterOf l).units + 1) 65535) ∧
        (c.connect ≠ none → t.meterOf l = s.meterOf l)

/-! ### The link protocol (Chapter 8) -/

/-- OFFER, FRAME_SENT, CHECK_SENT, RATE_DOWN and FRAME_WAIT_EXPIRY of a caller (R124, R125, R127 to R129, R132): a
choice from an OFFER; the check burst after the CHOICE, the wait after the burst and after a PAGE END; a lower rate,
or FAILED RATE at rate class 1; three repeats, with the call ended at the next expiry: fixed PARTIAL and CLEARING
with a FAREWELL where pages are confirmed and pages of the list are left, at rest otherwise, and logged TIMEOUT,
with the pages confirmed and the Attempt Image of the destination as they were (R151, R152), where the meter's desk,
the job and the destination are numbers that the spec gives; a page in progress loses its transmitting Reference. A
CHOICE that is sent again puts the caller back into CHOOSING (log 18) and carries the part's own tag as it is read
anew then (log 54); that a send in progress counts as ended at hook-on, so that the line at rest has an idle Pump
Link, is log 63 (DESIGN CHOICE, unsafe), that a rate class in force outside 1 to 4 is taken as it stands is log 73,
and that a resume index or an index of the page list at or above the page count names the entry all the same, in the
OFFER's page and in the LAST mark of a PAGE END, is log 72: these are the model's. A frame whose check differs is
disregarded. -/
def Obligations.CallersChooseAndCheck : Prop :=
  ∀ (s : State) (l : LineNo) (c : Call) (k : Link) (f : OutgoingFacts), s.LinkedWith l c k →
    c.out = some f →
    let x := s.line l
    let wait : Option LineTimer := some { kind := .frameWait, ms := 6000 }
    let choice := fun (rate : Nat) =>
      PumpCommand.sendFrame (.choice (k.coding.getD .plain) (k.resolution.getD .draft) rate s.ownTag)
    (x.pump.sending = none →
      (∀ (reference fine draft : Bool) (maxK maxRate rate total : Nat) (tag : Tag) (r : Resolution),
        k.phase = .awaitOffer → 1 ≤ maxK → maxK ≤ 15 → 1 ≤ maxRate → maxRate ≤ 4 → tag.length = 10 →
        k.rate = some rate → s.SentAs (s.jobPage f.job f.resume) fine r draft total →
        let coding : Coding := if reference = true ∧ 2 ≤ maxK then
          .reference (if maxK < 4 then 2 else if maxK < 8 then 4 else 8) else .plain
        exec (.offer l ((Frame.offer reference maxK fine maxRate tag).bytes.drop 1)) s
          = .next (State.syncLines (State.setLn (s.setLine l (LineChannel.sends { x with
              timer := none
              link := some { k with
                phase := .choosing, resolution := some r, rateChosen := min maxRate rate, repeats := 0,
                remoteTag := some tag, offerKept := some (fine, maxRate), coding := some coding } }
              (.sendFrame (.choice coding r (min maxRate rate) s.ownTag)))) l
            ((s.lnContext l).map (fun n => { n with coding := some coding, draft := draft }))))) ∧
      (∀ body : List Byte, body.drop 13 ≠ checkBytes (1 :: body.take 13) →
        exec (.offer l body) s = .next s.syncLines) ∧
      (k.phase = .awaitReady → 2 ≤ k.rateChosen →
        exec (.rateDown l (Frame.rateDown.bytes.drop 1)) s = s.becomes l (LineChannel.sends { x with
          timer := none
          link := some { k with
            phase := .choosing, resolution := some (k.resolution.getD .draft),
            rateChosen := k.rateChosen - 1, repeats := 0 } } (choice (k.rateChosen - 1)))) ∧
      (k.phase = .awaitReady → k.rateChosen ≤ 1 → k.sending = none →
        exec (.rateDown l (Frame.rateDown.bytes.drop 1)) s
          = .next (State.syncLines (State.setLn (s.setLine l (x.clears c k .failedRate)) l none)))) ∧
    (∀ coding r rate tag, x.pump.sending = some (.sendFrame (.choice coding r rate tag)) →
      exec (.frameSent l) s = s.becomes l
        (LineChannel.sends { x with link := some { k with phase := .checkingCaller } }
          (.sendCheck k.rateChosen))) ∧
    (∀ rate, x.pump.sending = some (.sendCheck rate) →
      exec (.checkSent l) s = s.becomes l
        (LineChannel.sent { x with link := some { k with phase := .awaitReady }, timer := wait })) ∧
    (∀ seq lines last, x.pump.sending = some (.sendFrame (.pageEnd seq lines last)) →
      exec (.frameSent l) s = s.becomes l
        (LineChannel.sent { x with link := some { k with phase := .awaitVerdict }, timer := wait })) ∧
    (s.timerIs l .frameWait = true → k.repeats < 3 →
      (k.phase = .awaitOffer → exec (.frameWaitExpiry l) s = s.becomes l
        { x with link := some { k with repeats := k.repeats + 1 }, timer := wait }) ∧
      (k.phase = .awaitReady → exec (.frameWaitExpiry l) s = s.becomes l (LineChannel.sends { x with
        timer := none
        link := some { k with phase := .choosing, repeats := k.repeats + 1 } } (choice k.rateChosen))) ∧
      (∀ p n h, k.phase = .awaitVerdict → k.sending = some p → s.lnContext l = some n → n.send = some h →
        exec (.frameWaitExpiry l) s = s.becomes l (LineChannel.sends { x with
          timer := none
          link := some { k with repeats := k.repeats + 1 } }
          (.sendFrame (.pageEnd p.seq h.total (p.index + 1 == s.jobPageCount f.job)))))) ∧
    (s.timerIs l .frameWait = true → 3 ≤ k.repeats →
      (∀ p, k.sending = some p → p.referenced = true → p.page < 128 ∧ 2 ≤ s.references p.page) →
      let left := 1 ≤ k.confirmed ∧ f.resume + k.confirmed < s.jobPageCount f.job
      let dropped := fun (t : State) => ∀ p, k.sending = some p → p.referenced = true →
        t.references p.page = s.references p.page - 1
      (left → x.pump.sending = none → ∃ t, exec (.frameWaitExpiry l) s = .next t ∧
        t.line l = x.clears c { k with sending := none } .partly ∧ t.lnContext l = none ∧ dropped t) ∧
      (¬ left → s.deskCap (s.meterOf l).desk = 0 →
        ∃ t, exec (.frameWaitExpiry l) s = .next t ∧ t.line l = LineChannel.atRest x.held ∧
          t.lnContext l = none ∧ t.charge.sequence = s.charge.sequence + 1 ∧
          (f.job < 16 → f.destination < 48 → (s.meterOf l).desk < 32 → f.number.length = 24 →
            (∃ d, d < s.jobDestinations f.job ∧ d < 48 ∧ d ≠ f.destination ∧
              (s.destination f.job d).state = .pending) →
            let d := s.destination f.job f.destination
            let e := t.destination f.job f.destination
            t.valueAt (0x16000 + 64 * (s.charge.sequence.toNat % 256) + 9) 1 = 21 ∧ dropped t ∧
            e.lastOutcome = 21 ∧ e.confirmed = d.confirmed ∧ e.resume = d.resume ∧
            e.startRate = d.startRate)))

/-- READY, PARCEL_TAKEN and VERDICT of a caller (R47, R78, R124, R129 to R132, R166): READY begins the next
page, or makes a new CHOICE where its resolution differs; PAGE END follows the page's last Parcel; GOOD
confirms a page and begins the next or ends the call SENT; the first POOR sends the page once more, but that
a page judged POOR is neither resent nor confirmed where a cap's order is owed; REFUSED ends the call; a
VERDICT of another page is disregarded. That an owed order goes before a resend whatever the sending (log 24),
that sendings are counted by the entry of the page list (log 56), and that an index at or above the page count
names the list entry all the same (log 72), is the model's. -/
def Obligations.CallersSendTheirPages : Prop :=
  ∀ (s : State) (l : LineNo) (c : Call) (k : Link) (f : OutgoingFacts) (n : LineContext),
    s.LinkedWith l c k → c.out = some f → s.lnContext l = some n →
    let x := s.line l
    let index := f.resume + k.confirmed
    let holds := fun (p most : Nat) => (s.pageState p = .sealed ∨ s.pageState p = .dropped) ∧
      s.references p ≤ most
    (∀ (fine draft : Bool) (mr total : Nat) (r : Resolution), x.pump.sending = none →
      k.phase = .awaitReady → k.offerKept = some (fine, mr) →
      s.SentAs (s.jobPage f.job index) fine r draft total →
      (k.resolution = some r → s.store.taking = true → holds (s.jobPage f.job index) 254 → total ≠ 0 →
        ∃ t, exec (.ready l (Frame.ready.bytes.drop 1)) s = .next t ∧
          PageBegun s t l { k with rate := some k.rateChosen } n (s.jobPage f.job index) index 1 total
            draft ∧
          t.references (s.jobPage f.job index) = s.references (s.jobPage f.job index) + 1) ∧
      (k.resolution ≠ some r →
        exec (.ready l (Frame.ready.bytes.drop 1)) s = s.becomes l (LineChannel.sends { x with
          timer := none
          link := some { k with rate := some k.rateChosen, phase := .choosing, resolution := some r,
                                repeats := 0 } }
          (.sendFrame (.choice (k.coding.getD .plain) r k.rateChosen s.ownTag))))) ∧
    (∀ bytes p h, x.pump.sending = some (.sendParcel bytes) → k.sending = some p → n.send = some h →
      let free := { x with transmit := none }
      ((h.nextSent < h.total ∨ h.pending ≠ none ∨ h.parcel ≠ none) →
        exec (.parcelTaken l) s = s.becomes l free.sent) ∧
      (h.total ≤ h.nextSent → h.pending = none → h.parcel = none →
        exec (.parcelTaken l) s = s.becomes l
          (LineChannel.sends { free with link := some { k with repeats := 0 } }
            (.sendFrame (.pageEnd p.seq h.total (p.index + 1 == s.jobPageCount f.job)))))) ∧
    ∀ p, x.pump.sending = none → k.phase = .awaitVerdict → k.sending = some p → p.referenced = true →
      p.page = s.jobPage f.job p.index → s.pageState p.page = .sealed ∨ s.pageState p.page = .dropped →
      2 ≤ s.references p.page → s.references p.page ≤ 255 →
      let hears := fun (j : Judgement) => exec (.verdict l ((Frame.verdict p.seq j).bytes.drop 1)) s
      let confirmed := { k with sending := none, confirmed := k.confirmed + 1, done := k.done + 1 }
      let clears := fun (k' : Link) (o : CallOutcome) (e : Host.Outcome State Fault Refusal) =>
        ∃ t, e = .next t ∧ t.line l = x.clears c k' o ∧ t.lnContext l = none ∧
          t.references p.page = s.references p.page - 1
      (∀ seq j, seq ≠ p.seq →
        exec (.verdict l ((Frame.verdict seq j).bytes.drop 1)) s = .next s.syncLines) ∧
      (p.index + 1 = s.jobPageCount f.job → clears confirmed .sent (hears .good)) ∧
      (p.index + 1 ≠ s.jobPageCount f.job → (s.meterOf l).capPending = true →
        clears confirmed .capEnded (hears .good)) ∧
      clears { k with sending := none } .refused (hears .refused) ∧
      ((s.meterOf l).capPending = true → clears { k with sending := none } .capEnded (hears .poor)) ∧
      ∀ (fine draft : Bool) (mr total : Nat) (r : Resolution), k.offerKept = some (fine, mr) →
        k.resolution = some r → (s.meterOf l).capPending = false → s.store.taking = true → total ≠ 0 →
        (p.index + 1 ≠ s.jobPageCount f.job → s.SentAs (s.jobPage f.job (index + 1)) fine r draft total →
          holds (s.jobPage f.job (index + 1)) 254 →
          ∃ t, hears .good = .next t ∧
            PageBegun s t l confirmed n (s.jobPage f.job (index + 1)) (index + 1) 1 total draft) ∧
        (p.times ≤ 1 → s.SentAs p.page fine r draft total →
          ∃ t, hears .poor = .next t ∧
            PageBegun s t l { k with resent := k.resent + 1 } n p.page p.index (p.times + 1) total draft)

/-- LN_SEND_GRANT (R67, R70, R74, R75): the line is decoded, or taken from the pending line; an odd line
under draft reduction is coded into nothing; the first line of a Parcel is coded DIRECT, the next ones by the
coder's rules; a line that would take the payload above 8192 bits closes the Parcel and waits, and the last
line and the 255th close it too. A closed Parcel goes into the transmit buffer and to the pump. LN_RECEIVE_GRANT
(R41, R43, R69, R74, R136, R137): a waiting line is committed, in the room of the page's last Leaf or with a
Leaf granted, or handed to the through-print, and otherwise the
Parcel's next line is decoded and placed, or the rest of the Parcel lost with a line error. A commit that is
refused for want of a Leaf truncates the page, and its waiting lines and Parcels are discarded. That the
waiting lines go before a Parcel is decoded further is the model's (log 22). -/
def Obligations.LineGrantsCodeOneLine : Prop :=
  (∀ (s : State) (l : LineNo) (e : Fin 7) (n : LineContext) (h : SendHalf) (coding : Coding),
    s.path.hold = false → s.engineChoice = some (e, .ln l) → s.lnReceiveWork l = false →
    s.lnContext l = some n → n.send = some h → n.coding = some coding →
    let after := fun (g : SendHalf) => { s with engine := { s.engine with
      ln := s.engine.ln.set l (some { n with send := some g })
      turns := s.engine.turns.set e (Fin.ofNat 10 (6 + l.val + 1)) } }
    let hands := fun (g : SendHalf) (p : OpenParcel) => (after { g with parcel := none }).setLine l
      (LineChannel.sends { s.line l with transmit := some (p.bytes h.seq) } (.sendParcel (p.bytes h.seq)))
    let decoded := { h with dec := (s.decodeNext h.dec).frame }
    (h.pending = none → n.draft = true → h.dec.next % 2 = 1 → exec .lnSendGrant s = .next (after decoded)) ∧
    ∀ (g : SendHalf) (x : Raster),
      ((h.pending = some x ∧ g = h) ∨ (h.pending = none ∧ (n.draft = true → h.dec.next % 2 = 0) ∧
        x = (s.decodeNext h.dec).pixels ∧ g = decoded)) →
      (h.parcel = none →
        let p : OpenParcel :=
          { first := h.nextSent, lines := 1, bits := (codeLine coding true x 0).bits }
        let g' := { g with nextSent := h.nextSent + 1, reference := x, nonDirect := 0, pending := none }
        exec .lnSendGrant s = .next
          (if h.nextSent + 1 = h.total then hands g' p else after { g' with parcel := some p })) ∧
      ∀ p, h.parcel = some p →
        let coded := codeLine coding (h.nonDirect == coding.limit) x h.reference
        let q : OpenParcel := { p with lines := p.lines + 1, bits := p.bits ++ coded.bits }
        let g' := { g with nextSent := h.nextSent + 1, reference := x
                           nonDirect := if coded.direct then 0 else h.nonDirect + 1 }
        (8192 < p.bits.length + coded.bits.length →
          exec .lnSendGrant s = .next (hands { g with pending := some x } p)) ∧
        (p.bits.length + coded.bits.length ≤ 8192 → exec .lnSendGrant s = .next
          (if p.lines + 1 = 255 ∨ h.nextSent + 1 = h.total then hands g' q
            else after { g' with parcel := some q }))) ∧
  ∀ (s : State) (l : LineNo) (e : Fin 7) (n : LineContext) (h : ReceiveHalf) (k : Link) (x : ReceivePage),
    s.path.hold = false → s.engineChoice = some (e, .ln l) → s.lnReceiveWork l = true →
    s.lnContext l = some n → n.receive = some h → (s.line l).link = some k → k.page = some x →
    let onto := fun (v : State) (x' : ReceivePage) (h' : ReceiveHalf) => State.setLine
      { v with engine := { s.engine with
          ln := s.engine.ln.set l (some { n with receive := some h' })
          turns := s.engine.turns.set e (Fin.ofNat 10 (6 + l.val + 1)) } } l
      { s.line l with link := some { k with page := some x' } }
    let after := onto s
    (∀ w rest p enc, x.waiting = w :: rest → x.output = .stored p → h.enc = some enc →
      let coded := enc.code w.pixels
      s.commits p coded.bits (if w.substitute then [(0x12, 2)] else []) (fun v m =>
        (w.substitute = true → { s with memory := m }.substituted p = (s.substituted p + 1) % 65536) ∧
        exec .lnReceiveGrant s = .next { onto v { x with waiting := rest } { h with enc := some { enc with
          next := enc.next + 1
          position := enc.position + coded.bits.length
          reference := w.pixels
          nonDirect := if coded.direct then 0 else enc.nonDirect + 1 } } with memory := m })) ∧
    (∀ w rest p enc, p < 128 → x.waiting = w :: rest → x.output = .stored p → h.enc = some enc →
      s.pageReceived p = true → s.Refuses p (enc.code w.pixels).bits.length →
      ∃ t, exec .lnReceiveGrant s = .next t ∧ t.pageTruncated p = true ∧ t.lnContext l = some n ∧
        t.line l = { s.line l with
          received := [], link := some { k with page := some { x with truncated := true, waiting := [] } } } ∧
        ∀ a, a ≠ s.regionBase + 0x3000 + 256 * p + 3 → t.memory.read a = s.memory.read a) ∧
    (∀ w rest, x.waiting = w :: rest → x.output = .through →
      exec .lnReceiveGrant s = .next { after { x with waiting := rest } h with
        print := { s.print with buffer := if s.print.paper then some w.pixels else s.print.buffer } }) ∧
    (∀ b coding, x.waiting = [] → x.truncated = false → n.coding = some coding → (s.line l).received = [b] →
      readLine coding (parcelBits b) h.bit h.reference = none →
      let past := (parcelHeader b).first + (parcelHeader b).count
      let x' := { x with
        cursor := max x.cursor past
        waiting := List.replicate (past - x.cursor) { pixels := x.lastGood.getD 0, substitute := true } }
      exec .lnReceiveGrant s = .next (State.setLine (after x' h) l
        { s.line l with received := [], link := some { k with page := some x' } })) ∧
    ∀ b rest coding y bit, x.waiting = [] → x.truncated = false → n.coding = some coding →
      (s.line l).received = b :: rest →
      readLine coding (parcelBits b) h.bit h.reference = some (y, bit) →
      let i := (parcelHeader b).first + h.decoded
      h.decoded + 1 < (parcelHeader b).count → x.cursor ≤ i →
      exec .lnReceiveGrant s = .next (after
        { x with cursor := i + 1, waiting := [{ pixels := y, substitute := false }], lastGood := some y }
        { h with bit := bit, decoded := h.decoded + 1, reference := y })

/-- TONE_PLAYED, CHOICE, CHECK_GOOD, CHECK_BAD, PARCEL_IN, PAGE_END and VERDICT_DECIDE of an answerer (R125,
R127, R133 to R136, R138 to R141, R175, R180): the OFFER after the tone; the check of a chosen rate; Parcels
taken into two buffers, the first good one of a page deciding its output, stored, through-print or refused,
with its missing lines substituted; FINISHING after the PAGE END, with no line waiting of a refused page, and
the verdict when the lines are done: POOR over threshold while the Page Start Minimum is met, for a resend the
choice of the copy that is kept, and the hand-over to auto-print and the end of a through-print. It is the
model's that a PAGE END orders its substitutes from the cursor with Parcels still in the buffers (log 23), that
the gap before a page's first Parcel is substituted (log 44), that a Parcel whose length is not the one its
header gives is lost (log 35), and that an OFFER sent again carries the own Station Tag held then (log 54). -/
def Obligations.AnswerersReceivePages : Prop :=
  ∀ (s : State) (l : LineNo) (c : Call) (k : Link) (n : LineContext), s.LinkedWith l c k → c.out = none →
    s.lnContext l = some n →
    let x := s.line l
    let gap : Option LineTimer := some { kind := .pageGap, ms := 60000 }
    let offer := PumpCommand.sendFrame (.offer true 8 true 4 s.ownTag)
    (k.phase = .tone → exec (.tonePlayed l) s = s.becomes l (LineChannel.sends
      { x with timer := none, link := some { k with phase := .offering, repeats := 0 } } offer)) ∧
    (s.timerIs l .frameWait = true → k.repeats < 3 → k.phase = .offering →
      exec (.frameWaitExpiry l) s = s.becomes l (LineChannel.sends
        { x with timer := none, link := some { k with repeats := k.repeats + 1 } } offer)) ∧
    (x.pump.sending = none →
      (∀ coding r rate tag, k.phase = .offering ∨ (k.phase = .receiving ∧ k.page = none) →
        coding ∈ [Coding.plain, .reference 2, .reference 4, .reference 8] → 1 ≤ rate → rate ≤ 4 →
        tag.length = 10 →
        exec (.choice l ((Frame.choice coding r rate tag).bytes.drop 1)) s
          = .next (State.syncLines (State.setLn (s.setLine l (LineChannel.listens { x with
              timer := none
              link := some { k with phase := .checkingAnswerer, rateChosen := rate,
                                    choiceTaken := some (coding, r), remoteTag := some tag } }
              (.listenCheck rate))) l (some { n with coding := some coding })))) ∧
      (∀ coding r, k.phase = .checkingAnswerer → k.choiceTaken = some (coding, r) →
        exec (.checkGood l) s = s.becomes l (LineChannel.listens (LineChannel.sends { x with
          timer := gap
          link := some { k with phase := .receiving, rate := some k.rateChosen, coding := some coding,
                                resolution := some r, repeats := 0 } } (.sendFrame .ready))
          (.listenParcels k.rateChosen))) ∧
      (k.phase = .checkingAnswerer → exec (.checkBad l) s = s.becomes l (LineChannel.sends
        { x with link := some { k with phase := .offering, repeats := 0 } } (.sendFrame .rateDown))) ∧
      (k.phase = .receiving →
        (∀ b, 2 ≤ x.received.length → exec (.parcelIn l b) s = s.becomes l { x with timer := gap }) ∧
        (∀ b, b.drop (6 + (beValue ((b.drop 4).take 2) + 7) / 8)
            ≠ checkBytes (b.take (6 + (beValue ((b.drop 4).take 2) + 7) / 8)) →
          exec (.parcelIn l b) s = s.becomes l { x with timer := gap }) ∧
        (∀ (p : OpenParcel) (seq : Byte), p.first ≤ 2559 → 1 ≤ p.lines → p.lines ≤ 255 →
          1 ≤ p.bits.length → p.bits.length ≤ 8192 → p.first + p.lines ≤ 2560 →
          (∀ y b, x.received = [b] → k.page = some y → y.seq = seq → y.output ≠ .refused →
            y.truncated = false → exec (.parcelIn l (p.bytes seq)) s
              = s.becomes l { x with timer := gap, received := [b, p.bytes seq] }) ∧
          (∀ r tag, x.received = [] → k.page = none → (∀ v, k.lastVerdict = some v → v.seq ≠ seq) →
            k.resolution = some r → k.remoteTag = some tag → tag.length = 10 → s.isRunning = true →
            s.store.taking = true → 16 ≤ s.store.depth → (∃ q, q < 128 ∧ s.pageState q = .free) →
            ∃ t q, exec (.parcelIn l (p.bytes seq)) s = .next t ∧ Created s t q .receive r ∧
              t.pageTag q = tag ∧
              t.line l = { x with
                timer := gap
                received := [p.bytes seq]
                link := some { k with page := some {
                  seq := seq
                  output := .stored q
                  cursor := p.first
                  lastGood := none
                  ending := none
                  truncated := false
                  waiting := List.replicate p.first { pixels := 0, substitute := true } } } } ∧
              t.lnContext l = some { n with receive := some {
                enc := some { page := q, next := 0, position := 0, reference := 0, nonDirect := 0 }
                bit := 0, decoded := 0, reference := 0 } }) ∧
          (∀ r, x.received = [] → k.page = none → (∀ v, k.lastVerdict = some v → v.seq ≠ seq) →
            k.resolution = some r → (s.store.depth < 16 ∨ ∀ q, q < 128 → s.pageState q ≠ .free) →
            let started := fun (output : Output) (cursor : Nat) => { x with
              timer := gap
              received := if output = .through then [p.bytes seq] else []
              link := some { k with
                awaited := none
                page := some {
                  seq := seq, output := output, cursor := cursor, lastGood := none, ending := none
                  truncated := false
                  waiting := List.replicate cursor { pixels := 0, substitute := true } } } }
            let decided := fun (u : PrintUnit) (y : LineChannel) =>
              Host.Outcome.next (State.syncLines (State.setLn (State.setLine { s with print := u } l y) l
                (some { n with receive := some { enc := none, bit := 0, decoded := 0, reference := 0 } })))
            (s.isRunning = true → s.print.state = .idle → exec (.parcelIn l (p.bytes seq)) s
              = decided { s.print with state := .through, owner := some l, buffer := none
                                       throughResolution := r, throughEnded := false, paperSteps := 0 }
                  (started .through p.first)) ∧
            (s.print.state ≠ .idle → k.awaited = none ∨ s.print.autoPrint = false →
              exec (.parcelIn l (p.bytes seq)) s = decided s.print (started .refused 0)))) ∧
        (∀ (seq : Byte) (lines : Nat) (last : Bool) (r : Resolution) (tag : Tag), k.page = none →
          (∀ v, k.lastVerdict = some v → v.seq ≠ seq) → lines ≤ 2560 → k.resolution = some r →
          k.remoteTag = some tag → tag.length = 10 → s.isRunning = true → s.store.taking = true →
          16 ≤ s.store.depth → (∃ q, q < 128 ∧ s.pageState q = .free) →
          ∃ t q, exec (.pageEnd l ((Frame.pageEnd seq lines last).bytes.drop 1)) s = .next t ∧
            Created s t q .receive r ∧ t.pageTag q = tag ∧
            t.line l = { x with
              timer := none
              link := some { k with
                phase := .finishing
                page := some {
                  seq := seq, output := .stored q, cursor := lines, lastGood := none
                  ending := some (lines, last), truncated := false
                  waiting := List.replicate lines { pixels := 0, substitute := true } } } }) ∧
        (∀ y lines last, k.page = some y → lines ≤ 2560 → y.truncated = false →
          exec (.pageEnd l ((Frame.pageEnd y.seq lines last).bytes.drop 1)) s = s.becomes l { x with
            timer := none
            link := some { k with
              phase := .finishing
              page := some { y with
                ending := some (lines, last)
                cursor := max y.cursor lines
                waiting := if y.output = .refused then [] else y.waiting ++ List.replicate (lines - y.cursor)
                  { pixels := y.lastGood.getD 0, substitute := true } } } }) ∧
        (∀ v lines last, k.page = none → k.lastVerdict = some v → lines ≤ 2560 →
          exec (.pageEnd l ((Frame.pageEnd v.seq lines last).bytes.drop 1)) s = s.becomes l
            (LineChannel.sends { x with timer := gap, link := some { k with repeats := 0 } }
              (.sendFrame (.verdict v.seq v.judgement))))) ∧
      (∀ y lines last, k.phase = .finishing → k.page = some y → y.waiting = [] → x.received = [] →
        y.ending = some (lines, last) →
        let verdict := fun (j : Judgement) (k' : Link) => LineChannel.sends { x with
          timer := gap
          link := some { k' with
            phase := .receiving, page := none, repeats := 0
            lastVerdict := some { seq := y.seq, judgement := j, last := last } } }
          (.sendFrame (.verdict y.seq j))
        let accepted := verdict .good { k with awaited := none, done := k.done + 1 }
        (y.output = .refused → exec (.verdictDecide l) s = s.becomes l (verdict .refused k)) ∧
        (y.output = .through → k.awaited = none → s.print.state = .through → s.print.owner = some l →
          exec (.verdictDecide l) s = State.becomes { s with print :=
            if s.print.buffer.isSome then { s.print with throughEnded := true }
            else if s.print.paper then { s.print with state := .cutting }
            else { s.print with state := .paperWait, owner := none, throughEnded := false } } l accepted) ∧
        ∀ q, q < 128 → y.output = .stored q → s.pageState q = .filling → 1 ≤ s.references q →
          let bad := s.poorThreshold < s.substituted q ∨ s.pageTruncated q = true
          (k.awaited = none → bad → s.pageStartMinimum = true → ∃ t, exec (.verdictDecide l) s = .next t ∧
            t.pageState q = .sealed ∧ (t.pageFlags q).getLsbD 1 = true ∧
            t.line l = verdict .poor { k with awaited := some { page := q, announced := lines } }) ∧
          (k.awaited = none → ¬ bad ∨ s.pageStartMinimum = false →
            ∃ t, exec (.verdictDecide l) s = .next t ∧ t.pageState q = .sealed ∧
              (bad → (t.pageFlags q).getLsbD 1 = true) ∧ t.line l = accepted ∧ AutoPrinted s t q) ∧
          ∀ a, k.awaited = some a → a.page < 128 → a.page ≠ q → s.pageState a.page = .sealed →
            1 ≤ s.references a.page → s.references a.page ≤ 255 → s.references q ≤ 255 →
            s.StoreBounded →
            let loss := fun (p announced : Nat) =>
              s.substituted p + if s.pageTruncated p then announced - s.pageLines p else 0
            let keeps := loss q lines ≤ loss a.page a.announced
            let kept := if keeps then q else a.page
            let lost := if keeps then a.page else q
            ∃ t, exec (.verdictDecide l) s = .next t ∧ t.line l = accepted ∧
              t.pageState kept = .sealed ∧ (keeps → bad → (t.pageFlags q).getLsbD 1 = true) ∧
              t.pageOwned lost = false ∧ (t.pageState lost = .dropped ∨ t.pageState lost = .free) ∧
              AutoPrinted s t kept ∧
              (s.path.state ≠ .pass → s.request.unread + 2 ≤ 128 →
                (t.noticeAt s.request.produce).take 1 = [3] ∧
                (t.noticeAt s.request.produce).drop 2 = [BitVec.ofNat 8 q, 0xFF] ++ leBytes 4 s.timeOfDay
                  ++ leBytes 4 (s.pageLines q) ++ leBytes 4 (s.references q) ∧
                (t.noticeAt (s.request.produce + 1)).take 12 = [4, 40, BitVec.ofNat 8 lost, 0xFF]
                  ++ leBytes 4 s.timeOfDay
                  ++ leBytes 4 (s.references lost - if s.pageOwned lost then 1 else 0)))) ∧
    ∀ seq j, x.pump.sending = some (.sendFrame (.verdict seq j)) →
      exec (.frameSent l) s = s.becomes l
        (LineChannel.listens x.sent (.listenParcels (k.rate.getD k.rateChosen)))
end

