-- ==== Sys2Proof/Laws/State.lean ====
section
/-! SUPPORT. One lemma per field per update of the state: what each update leaves as it was, and what
it sets. -/

-- One thread: the package as one text is checked under a memory limit, and each thread counts.
set_option Elab.async false

namespace Sys2Proof.Machine

variable (s : State)

/-! ### poke -/

@[simp] theorem State.poke_path (off : Nat) (bs : List Byte) : (s.poke off bs).path = s.path := rfl
@[simp] theorem State.poke_arbiter (off : Nat) (bs : List Byte) : (s.poke off bs).arbiter = s.arbiter := rfl
@[simp] theorem State.poke_request (off : Nat) (bs : List Byte) : (s.poke off bs).request = s.request := rfl
@[simp] theorem State.poke_time (off : Nat) (bs : List Byte) : (s.poke off bs).time = s.time := rfl
@[simp] theorem State.poke_store (off : Nat) (bs : List Byte) : (s.poke off bs).store = s.store := rfl
@[simp] theorem State.poke_engine (off : Nat) (bs : List Byte) : (s.poke off bs).engine = s.engine := rfl
@[simp] theorem State.poke_scan (off : Nat) (bs : List Byte) : (s.poke off bs).scan = s.scan := rfl
@[simp] theorem State.poke_lines (off : Nat) (bs : List Byte) : (s.poke off bs).lines = s.lines := rfl
@[simp] theorem State.poke_poorThreshold (off : Nat) (bs : List Byte) : (s.poke off bs).poorThreshold = s.poorThreshold := rfl
@[simp] theorem State.poke_dispatcher (off : Nat) (bs : List Byte) : (s.poke off bs).dispatcher = s.dispatcher := rfl
@[simp] theorem State.poke_charge (off : Nat) (bs : List Byte) : (s.poke off bs).charge = s.charge := rfl
@[simp] theorem State.poke_print (off : Nat) (bs : List Byte) : (s.poke off bs).print = s.print := rfl
@[simp] theorem State.poke_free (off : Nat) (bs : List Byte) : (s.poke off bs).free = s.free := rfl
@[simp] theorem State.poke_pending (off : Nat) (bs : List Byte) : (s.poke off bs).pending = s.pending := rfl

/-! ### setLine -/

@[simp] theorem State.setLine_memory (l : LineNo) (x : LineChannel) : (s.setLine l x).memory = s.memory := rfl
@[simp] theorem State.setLine_path (l : LineNo) (x : LineChannel) : (s.setLine l x).path = s.path := rfl
@[simp] theorem State.setLine_arbiter (l : LineNo) (x : LineChannel) : (s.setLine l x).arbiter = s.arbiter := rfl
@[simp] theorem State.setLine_request (l : LineNo) (x : LineChannel) : (s.setLine l x).request = s.request := rfl
@[simp] theorem State.setLine_time (l : LineNo) (x : LineChannel) : (s.setLine l x).time = s.time := rfl
@[simp] theorem State.setLine_store (l : LineNo) (x : LineChannel) : (s.setLine l x).store = s.store := rfl
@[simp] theorem State.setLine_engine (l : LineNo) (x : LineChannel) : (s.setLine l x).engine = s.engine := rfl
@[simp] theorem State.setLine_scan (l : LineNo) (x : LineChannel) : (s.setLine l x).scan = s.scan := rfl
@[simp] theorem State.setLine_poorThreshold (l : LineNo) (x : LineChannel) : (s.setLine l x).poorThreshold = s.poorThreshold := rfl
@[simp] theorem State.setLine_dispatcher (l : LineNo) (x : LineChannel) : (s.setLine l x).dispatcher = s.dispatcher := rfl
@[simp] theorem State.setLine_charge (l : LineNo) (x : LineChannel) : (s.setLine l x).charge = s.charge := rfl
@[simp] theorem State.setLine_print (l : LineNo) (x : LineChannel) : (s.setLine l x).print = s.print := rfl
@[simp] theorem State.setLine_free (l : LineNo) (x : LineChannel) : (s.setLine l x).free = s.free := rfl
@[simp] theorem State.setLine_pending (l : LineNo) (x : LineChannel) : (s.setLine l x).pending = s.pending := rfl

/-! ### setMeter -/

@[simp] theorem State.setMeter_memory (l : LineNo) (x : Meter) : (s.setMeter l x).memory = s.memory := rfl
@[simp] theorem State.setMeter_path (l : LineNo) (x : Meter) : (s.setMeter l x).path = s.path := rfl
@[simp] theorem State.setMeter_arbiter (l : LineNo) (x : Meter) : (s.setMeter l x).arbiter = s.arbiter := rfl
@[simp] theorem State.setMeter_request (l : LineNo) (x : Meter) : (s.setMeter l x).request = s.request := rfl
@[simp] theorem State.setMeter_time (l : LineNo) (x : Meter) : (s.setMeter l x).time = s.time := rfl
@[simp] theorem State.setMeter_store (l : LineNo) (x : Meter) : (s.setMeter l x).store = s.store := rfl
@[simp] theorem State.setMeter_engine (l : LineNo) (x : Meter) : (s.setMeter l x).engine = s.engine := rfl
@[simp] theorem State.setMeter_scan (l : LineNo) (x : Meter) : (s.setMeter l x).scan = s.scan := rfl
@[simp] theorem State.setMeter_lines (l : LineNo) (x : Meter) : (s.setMeter l x).lines = s.lines := rfl
@[simp] theorem State.setMeter_poorThreshold (l : LineNo) (x : Meter) : (s.setMeter l x).poorThreshold = s.poorThreshold := rfl
@[simp] theorem State.setMeter_dispatcher (l : LineNo) (x : Meter) : (s.setMeter l x).dispatcher = s.dispatcher := rfl
@[simp] theorem State.setMeter_print (l : LineNo) (x : Meter) : (s.setMeter l x).print = s.print := rfl
@[simp] theorem State.setMeter_free (l : LineNo) (x : Meter) : (s.setMeter l x).free = s.free := rfl
@[simp] theorem State.setMeter_pending (l : LineNo) (x : Meter) : (s.setMeter l x).pending = s.pending := rfl

/-! ### setDesk -/

@[simp] theorem State.setDesk_memory (d : Nat) (x : DeskHeld) : (s.setDesk d x).memory = s.memory := rfl
@[simp] theorem State.setDesk_path (d : Nat) (x : DeskHeld) : (s.setDesk d x).path = s.path := rfl
@[simp] theorem State.setDesk_arbiter (d : Nat) (x : DeskHeld) : (s.setDesk d x).arbiter = s.arbiter := rfl
@[simp] theorem State.setDesk_request (d : Nat) (x : DeskHeld) : (s.setDesk d x).request = s.request := rfl
@[simp] theorem State.setDesk_time (d : Nat) (x : DeskHeld) : (s.setDesk d x).time = s.time := rfl
@[simp] theorem State.setDesk_store (d : Nat) (x : DeskHeld) : (s.setDesk d x).store = s.store := rfl
@[simp] theorem State.setDesk_engine (d : Nat) (x : DeskHeld) : (s.setDesk d x).engine = s.engine := rfl
@[simp] theorem State.setDesk_scan (d : Nat) (x : DeskHeld) : (s.setDesk d x).scan = s.scan := rfl
@[simp] theorem State.setDesk_lines (d : Nat) (x : DeskHeld) : (s.setDesk d x).lines = s.lines := rfl
@[simp] theorem State.setDesk_poorThreshold (d : Nat) (x : DeskHeld) : (s.setDesk d x).poorThreshold = s.poorThreshold := rfl
@[simp] theorem State.setDesk_dispatcher (d : Nat) (x : DeskHeld) : (s.setDesk d x).dispatcher = s.dispatcher := rfl
@[simp] theorem State.setDesk_print (d : Nat) (x : DeskHeld) : (s.setDesk d x).print = s.print := rfl
@[simp] theorem State.setDesk_free (d : Nat) (x : DeskHeld) : (s.setDesk d x).free = s.free := rfl
@[simp] theorem State.setDesk_pending (d : Nat) (x : DeskHeld) : (s.setDesk d x).pending = s.pending := rfl

/-! ### setLn -/

@[simp] theorem State.setLn_memory (l : LineNo) (x : Option LineContext) : (s.setLn l x).memory = s.memory := rfl
@[simp] theorem State.setLn_path (l : LineNo) (x : Option LineContext) : (s.setLn l x).path = s.path := rfl
@[simp] theorem State.setLn_arbiter (l : LineNo) (x : Option LineContext) : (s.setLn l x).arbiter = s.arbiter := rfl
@[simp] theorem State.setLn_request (l : LineNo) (x : Option LineContext) : (s.setLn l x).request = s.request := rfl
@[simp] theorem State.setLn_time (l : LineNo) (x : Option LineContext) : (s.setLn l x).time = s.time := rfl
@[simp] theorem State.setLn_store (l : LineNo) (x : Option LineContext) : (s.setLn l x).store = s.store := rfl
@[simp] theorem State.setLn_scan (l : LineNo) (x : Option LineContext) : (s.setLn l x).scan = s.scan := rfl
@[simp] theorem State.setLn_lines (l : LineNo) (x : Option LineContext) : (s.setLn l x).lines = s.lines := rfl
@[simp] theorem State.setLn_poorThreshold (l : LineNo) (x : Option LineContext) : (s.setLn l x).poorThreshold = s.poorThreshold := rfl
@[simp] theorem State.setLn_dispatcher (l : LineNo) (x : Option LineContext) : (s.setLn l x).dispatcher = s.dispatcher := rfl
@[simp] theorem State.setLn_charge (l : LineNo) (x : Option LineContext) : (s.setLn l x).charge = s.charge := rfl
@[simp] theorem State.setLn_print (l : LineNo) (x : Option LineContext) : (s.setLn l x).print = s.print := rfl
@[simp] theorem State.setLn_free (l : LineNo) (x : Option LineContext) : (s.setLn l x).free = s.free := rfl
@[simp] theorem State.setLn_pending (l : LineNo) (x : Option LineContext) : (s.setLn l x).pending = s.pending := rfl

/-! ### setCp -/

@[simp] theorem State.setCp_memory (i : Fin 2) (x : Option ComposeContext) : (s.setCp i x).memory = s.memory := rfl
@[simp] theorem State.setCp_path (i : Fin 2) (x : Option ComposeContext) : (s.setCp i x).path = s.path := rfl
@[simp] theorem State.setCp_arbiter (i : Fin 2) (x : Option ComposeContext) : (s.setCp i x).arbiter = s.arbiter := rfl
@[simp] theorem State.setCp_request (i : Fin 2) (x : Option ComposeContext) : (s.setCp i x).request = s.request := rfl
@[simp] theorem State.setCp_time (i : Fin 2) (x : Option ComposeContext) : (s.setCp i x).time = s.time := rfl
@[simp] theorem State.setCp_store (i : Fin 2) (x : Option ComposeContext) : (s.setCp i x).store = s.store := rfl
@[simp] theorem State.setCp_scan (i : Fin 2) (x : Option ComposeContext) : (s.setCp i x).scan = s.scan := rfl
@[simp] theorem State.setCp_lines (i : Fin 2) (x : Option ComposeContext) : (s.setCp i x).lines = s.lines := rfl
@[simp] theorem State.setCp_poorThreshold (i : Fin 2) (x : Option ComposeContext) : (s.setCp i x).poorThreshold = s.poorThreshold := rfl
@[simp] theorem State.setCp_dispatcher (i : Fin 2) (x : Option ComposeContext) : (s.setCp i x).dispatcher = s.dispatcher := rfl
@[simp] theorem State.setCp_charge (i : Fin 2) (x : Option ComposeContext) : (s.setCp i x).charge = s.charge := rfl
@[simp] theorem State.setCp_print (i : Fin 2) (x : Option ComposeContext) : (s.setCp i x).print = s.print := rfl
@[simp] theorem State.setCp_free (i : Fin 2) (x : Option ComposeContext) : (s.setCp i x).free = s.free := rfl
@[simp] theorem State.setCp_pending (i : Fin 2) (x : Option ComposeContext) : (s.setCp i x).pending = s.pending := rfl

/-! ### setRv -/

@[simp] theorem State.setRv_memory (i : Fin 2) (x : Option ViewContext) : (s.setRv i x).memory = s.memory := rfl
@[simp] theorem State.setRv_path (i : Fin 2) (x : Option ViewContext) : (s.setRv i x).path = s.path := rfl
@[simp] theorem State.setRv_arbiter (i : Fin 2) (x : Option ViewContext) : (s.setRv i x).arbiter = s.arbiter := rfl
@[simp] theorem State.setRv_request (i : Fin 2) (x : Option ViewContext) : (s.setRv i x).request = s.request := rfl
@[simp] theorem State.setRv_time (i : Fin 2) (x : Option ViewContext) : (s.setRv i x).time = s.time := rfl
@[simp] theorem State.setRv_store (i : Fin 2) (x : Option ViewContext) : (s.setRv i x).store = s.store := rfl
@[simp] theorem State.setRv_scan (i : Fin 2) (x : Option ViewContext) : (s.setRv i x).scan = s.scan := rfl
@[simp] theorem State.setRv_lines (i : Fin 2) (x : Option ViewContext) : (s.setRv i x).lines = s.lines := rfl
@[simp] theorem State.setRv_poorThreshold (i : Fin 2) (x : Option ViewContext) : (s.setRv i x).poorThreshold = s.poorThreshold := rfl
@[simp] theorem State.setRv_dispatcher (i : Fin 2) (x : Option ViewContext) : (s.setRv i x).dispatcher = s.dispatcher := rfl
@[simp] theorem State.setRv_charge (i : Fin 2) (x : Option ViewContext) : (s.setRv i x).charge = s.charge := rfl
@[simp] theorem State.setRv_print (i : Fin 2) (x : Option ViewContext) : (s.setRv i x).print = s.print := rfl
@[simp] theorem State.setRv_free (i : Fin 2) (x : Option ViewContext) : (s.setRv i x).free = s.free := rfl
@[simp] theorem State.setRv_pending (i : Fin 2) (x : Option ViewContext) : (s.setRv i x).pending = s.pending := rfl

/-! ### onScan -/

@[simp] theorem State.onScan_memory (f : ScanUnit → ScanUnit) : (s.onScan f).memory = s.memory := rfl
@[simp] theorem State.onScan_path (f : ScanUnit → ScanUnit) : (s.onScan f).path = s.path := rfl
@[simp] theorem State.onScan_arbiter (f : ScanUnit → ScanUnit) : (s.onScan f).arbiter = s.arbiter := rfl
@[simp] theorem State.onScan_request (f : ScanUnit → ScanUnit) : (s.onScan f).request = s.request := rfl
@[simp] theorem State.onScan_time (f : ScanUnit → ScanUnit) : (s.onScan f).time = s.time := rfl
@[simp] theorem State.onScan_store (f : ScanUnit → ScanUnit) : (s.onScan f).store = s.store := rfl
@[simp] theorem State.onScan_engine (f : ScanUnit → ScanUnit) : (s.onScan f).engine = s.engine := rfl
@[simp] theorem State.onScan_lines (f : ScanUnit → ScanUnit) : (s.onScan f).lines = s.lines := rfl
@[simp] theorem State.onScan_poorThreshold (f : ScanUnit → ScanUnit) : (s.onScan f).poorThreshold = s.poorThreshold := rfl
@[simp] theorem State.onScan_dispatcher (f : ScanUnit → ScanUnit) : (s.onScan f).dispatcher = s.dispatcher := rfl
@[simp] theorem State.onScan_charge (f : ScanUnit → ScanUnit) : (s.onScan f).charge = s.charge := rfl
@[simp] theorem State.onScan_print (f : ScanUnit → ScanUnit) : (s.onScan f).print = s.print := rfl
@[simp] theorem State.onScan_free (f : ScanUnit → ScanUnit) : (s.onScan f).free = s.free := rfl
@[simp] theorem State.onScan_pending (f : ScanUnit → ScanUnit) : (s.onScan f).pending = s.pending := rfl

/-! ### setAperture -/

@[simp] theorem State.setAperture_memory (e : Fin 8) (x : Aperture) : (s.setAperture e x).memory = s.memory := rfl
@[simp] theorem State.setAperture_arbiter (e : Fin 8) (x : Aperture) : (s.setAperture e x).arbiter = s.arbiter := rfl
@[simp] theorem State.setAperture_request (e : Fin 8) (x : Aperture) : (s.setAperture e x).request = s.request := rfl
@[simp] theorem State.setAperture_time (e : Fin 8) (x : Aperture) : (s.setAperture e x).time = s.time := rfl
@[simp] theorem State.setAperture_store (e : Fin 8) (x : Aperture) : (s.setAperture e x).store = s.store := rfl
@[simp] theorem State.setAperture_engine (e : Fin 8) (x : Aperture) : (s.setAperture e x).engine = s.engine := rfl
@[simp] theorem State.setAperture_scan (e : Fin 8) (x : Aperture) : (s.setAperture e x).scan = s.scan := rfl
@[simp] theorem State.setAperture_lines (e : Fin 8) (x : Aperture) : (s.setAperture e x).lines = s.lines := rfl
@[simp] theorem State.setAperture_poorThreshold (e : Fin 8) (x : Aperture) : (s.setAperture e x).poorThreshold = s.poorThreshold := rfl
@[simp] theorem State.setAperture_dispatcher (e : Fin 8) (x : Aperture) : (s.setAperture e x).dispatcher = s.dispatcher := rfl
@[simp] theorem State.setAperture_charge (e : Fin 8) (x : Aperture) : (s.setAperture e x).charge = s.charge := rfl
@[simp] theorem State.setAperture_print (e : Fin 8) (x : Aperture) : (s.setAperture e x).print = s.print := rfl
@[simp] theorem State.setAperture_free (e : Fin 8) (x : Aperture) : (s.setAperture e x).free = s.free := rfl
@[simp] theorem State.setAperture_pending (e : Fin 8) (x : Aperture) : (s.setAperture e x).pending = s.pending := rfl

/-! ### bind -/

@[simp] theorem State.bind_memory (e : Fin 8) (x : Option Binding) : (s.bind e x).memory = s.memory := rfl
@[simp] theorem State.bind_arbiter (e : Fin 8) (x : Option Binding) : (s.bind e x).arbiter = s.arbiter := rfl
@[simp] theorem State.bind_request (e : Fin 8) (x : Option Binding) : (s.bind e x).request = s.request := rfl
@[simp] theorem State.bind_time (e : Fin 8) (x : Option Binding) : (s.bind e x).time = s.time := rfl
@[simp] theorem State.bind_store (e : Fin 8) (x : Option Binding) : (s.bind e x).store = s.store := rfl
@[simp] theorem State.bind_engine (e : Fin 8) (x : Option Binding) : (s.bind e x).engine = s.engine := rfl
@[simp] theorem State.bind_scan (e : Fin 8) (x : Option Binding) : (s.bind e x).scan = s.scan := rfl
@[simp] theorem State.bind_lines (e : Fin 8) (x : Option Binding) : (s.bind e x).lines = s.lines := rfl
@[simp] theorem State.bind_poorThreshold (e : Fin 8) (x : Option Binding) : (s.bind e x).poorThreshold = s.poorThreshold := rfl
@[simp] theorem State.bind_dispatcher (e : Fin 8) (x : Option Binding) : (s.bind e x).dispatcher = s.dispatcher := rfl
@[simp] theorem State.bind_charge (e : Fin 8) (x : Option Binding) : (s.bind e x).charge = s.charge := rfl
@[simp] theorem State.bind_print (e : Fin 8) (x : Option Binding) : (s.bind e x).print = s.print := rfl
@[simp] theorem State.bind_free (e : Fin 8) (x : Option Binding) : (s.bind e x).free = s.free := rfl
@[simp] theorem State.bind_pending (e : Fin 8) (x : Option Binding) : (s.bind e x).pending = s.pending := rfl

/-! ### endCycle -/

@[simp] theorem State.endCycle_memory (d : Option Word) : (s.endCycle d).memory = s.memory := rfl
@[simp] theorem State.endCycle_arbiter (d : Option Word) : (s.endCycle d).arbiter = s.arbiter := rfl
@[simp] theorem State.endCycle_request (d : Option Word) : (s.endCycle d).request = s.request := rfl
@[simp] theorem State.endCycle_time (d : Option Word) : (s.endCycle d).time = s.time := rfl
@[simp] theorem State.endCycle_store (d : Option Word) : (s.endCycle d).store = s.store := rfl
@[simp] theorem State.endCycle_engine (d : Option Word) : (s.endCycle d).engine = s.engine := rfl
@[simp] theorem State.endCycle_scan (d : Option Word) : (s.endCycle d).scan = s.scan := rfl
@[simp] theorem State.endCycle_lines (d : Option Word) : (s.endCycle d).lines = s.lines := rfl
@[simp] theorem State.endCycle_poorThreshold (d : Option Word) : (s.endCycle d).poorThreshold = s.poorThreshold := rfl
@[simp] theorem State.endCycle_dispatcher (d : Option Word) : (s.endCycle d).dispatcher = s.dispatcher := rfl
@[simp] theorem State.endCycle_charge (d : Option Word) : (s.endCycle d).charge = s.charge := rfl
@[simp] theorem State.endCycle_print (d : Option Word) : (s.endCycle d).print = s.print := rfl
@[simp] theorem State.endCycle_free (d : Option Word) : (s.endCycle d).free = s.free := rfl
@[simp] theorem State.endCycle_pending (d : Option Word) : (s.endCycle d).pending = s.pending := rfl

/-! ### withPending -/

@[simp] theorem State.withPending_memory (q : List Instr) : (s.withPending q).memory = s.memory := rfl
@[simp] theorem State.withPending_path (q : List Instr) : (s.withPending q).path = s.path := rfl
@[simp] theorem State.withPending_arbiter (q : List Instr) : (s.withPending q).arbiter = s.arbiter := rfl
@[simp] theorem State.withPending_request (q : List Instr) : (s.withPending q).request = s.request := rfl
@[simp] theorem State.withPending_time (q : List Instr) : (s.withPending q).time = s.time := rfl
@[simp] theorem State.withPending_store (q : List Instr) : (s.withPending q).store = s.store := rfl
@[simp] theorem State.withPending_engine (q : List Instr) : (s.withPending q).engine = s.engine := rfl
@[simp] theorem State.withPending_scan (q : List Instr) : (s.withPending q).scan = s.scan := rfl
@[simp] theorem State.withPending_lines (q : List Instr) : (s.withPending q).lines = s.lines := rfl
@[simp] theorem State.withPending_poorThreshold (q : List Instr) : (s.withPending q).poorThreshold = s.poorThreshold := rfl
@[simp] theorem State.withPending_dispatcher (q : List Instr) : (s.withPending q).dispatcher = s.dispatcher := rfl
@[simp] theorem State.withPending_charge (q : List Instr) : (s.withPending q).charge = s.charge := rfl
@[simp] theorem State.withPending_print (q : List Instr) : (s.withPending q).print = s.print := rfl
@[simp] theorem State.withPending_free (q : List Instr) : (s.withPending q).free = s.free := rfl

/-! ### Record transfers -/

theorem State.pokes_eq (ps : List (Nat × List Byte)) :
    s.pokes ps = { s with memory := (s.pokes ps).memory } := by
  unfold State.pokes
  induction ps generalizing s with
  | nil => rfl
  | cons p ps ih => rw [List.foldl_cons, ih]; rfl

@[simp] theorem State.pokes_path (ps : List (Nat × List Byte)) : (s.pokes ps).path = s.path := by
  rw [State.pokes_eq]
@[simp] theorem State.pokes_arbiter (ps : List (Nat × List Byte)) : (s.pokes ps).arbiter = s.arbiter := by
  rw [State.pokes_eq]
@[simp] theorem State.pokes_request (ps : List (Nat × List Byte)) : (s.pokes ps).request = s.request := by
  rw [State.pokes_eq]
@[simp] theorem State.pokes_time (ps : List (Nat × List Byte)) : (s.pokes ps).time = s.time := by
  rw [State.pokes_eq]
@[simp] theorem State.pokes_store (ps : List (Nat × List Byte)) : (s.pokes ps).store = s.store := by
  rw [State.pokes_eq]
@[simp] theorem State.pokes_engine (ps : List (Nat × List Byte)) : (s.pokes ps).engine = s.engine := by
  rw [State.pokes_eq]
@[simp] theorem State.pokes_scan (ps : List (Nat × List Byte)) : (s.pokes ps).scan = s.scan := by
  rw [State.pokes_eq]
@[simp] theorem State.pokes_lines (ps : List (Nat × List Byte)) : (s.pokes ps).lines = s.lines := by
  rw [State.pokes_eq]
@[simp] theorem State.pokes_poorThreshold (ps : List (Nat × List Byte)) : (s.pokes ps).poorThreshold = s.poorThreshold := by
  rw [State.pokes_eq]
@[simp] theorem State.pokes_dispatcher (ps : List (Nat × List Byte)) : (s.pokes ps).dispatcher = s.dispatcher := by
  rw [State.pokes_eq]
@[simp] theorem State.pokes_charge (ps : List (Nat × List Byte)) : (s.pokes ps).charge = s.charge := by
  rw [State.pokes_eq]
@[simp] theorem State.pokes_print (ps : List (Nat × List Byte)) : (s.pokes ps).print = s.print := by
  rw [State.pokes_eq]
@[simp] theorem State.pokes_free (ps : List (Nat × List Byte)) : (s.pokes ps).free = s.free := by
  rw [State.pokes_eq]
@[simp] theorem State.pokes_pending (ps : List (Nat × List Byte)) : (s.pokes ps).pending = s.pending := by
  rw [State.pokes_eq]
@[simp] theorem State.record_path (u : Requester) (ps : List (Nat × List Byte)) :
    (s.record u ps).path = s.path := by simp [State.record]
@[simp] theorem State.record_request (u : Requester) (ps : List (Nat × List Byte)) :
    (s.record u ps).request = s.request := by simp [State.record]
@[simp] theorem State.record_time (u : Requester) (ps : List (Nat × List Byte)) :
    (s.record u ps).time = s.time := by simp [State.record]
@[simp] theorem State.record_store (u : Requester) (ps : List (Nat × List Byte)) :
    (s.record u ps).store = s.store := by simp [State.record]
@[simp] theorem State.record_engine (u : Requester) (ps : List (Nat × List Byte)) :
    (s.record u ps).engine = s.engine := by simp [State.record]
@[simp] theorem State.record_scan (u : Requester) (ps : List (Nat × List Byte)) :
    (s.record u ps).scan = s.scan := by simp [State.record]
@[simp] theorem State.record_lines (u : Requester) (ps : List (Nat × List Byte)) :
    (s.record u ps).lines = s.lines := by simp [State.record]
@[simp] theorem State.record_poorThreshold (u : Requester) (ps : List (Nat × List Byte)) :
    (s.record u ps).poorThreshold = s.poorThreshold := by simp [State.record]
@[simp] theorem State.record_dispatcher (u : Requester) (ps : List (Nat × List Byte)) :
    (s.record u ps).dispatcher = s.dispatcher := by simp [State.record]
@[simp] theorem State.record_charge (u : Requester) (ps : List (Nat × List Byte)) :
    (s.record u ps).charge = s.charge := by simp [State.record]
@[simp] theorem State.record_print (u : Requester) (ps : List (Nat × List Byte)) :
    (s.record u ps).print = s.print := by simp [State.record]
@[simp] theorem State.record_free (u : Requester) (ps : List (Nat × List Byte)) :
    (s.record u ps).free = s.free := by simp [State.record]
@[simp] theorem State.record_pending (u : Requester) (ps : List (Nat × List Byte)) :
    (s.record u ps).pending = s.pending := by simp [State.record]
@[simp] theorem State.record_arbiter (u : Requester) (ps : List (Nat × List Byte)) :
    (s.record u ps).arbiter = s.recordArbiter u ps := rfl
/-- Outside a hold a record transfer is granted (R13). -/
theorem State.recordArbiter_free (u : Requester) (ps : List (Nat × List Byte))
    (h : s.path.hold = false) :
    s.recordArbiter u ps = s.arbiter.granted u := by simp [State.recordArbiter, h]
/-- Outside a hold a path access or engine data leaves the Arbiter as it is. -/
theorem State.shownArbiter_free (ps : List (Nat × List Byte)) (h : s.path.hold = false) :
    s.shownArbiter ps = s.arbiter := by simp [State.shownArbiter, h]
/-- Outside a hold such pieces are written, and nothing else changes. -/
theorem State.pokesNow_free (ps : List (Nat × List Byte)) (h : s.path.hold = false) :
    s.pokesNow ps = s.pokes ps := by
  have e : s.shownArbiter ps = (s.pokes ps).arbiter := by rw [State.shownArbiter_free s ps h, State.pokes_arbiter]
  simp only [State.pokesNow, e]
/-- Outside a hold the host reads a word as the memory holds it (R12). -/
theorem State.hostWord_free (a : Nat) (h : s.path.hold = false) : s.hostWord a = s.memory.readWord a := by
  simp [State.hostWord, State.hostByte, h, Memory.readWord, Memory.readValue, Memory.readBytes]
@[simp] theorem State.pokesNow_memory (ps : List (Nat × List Byte)) :
    (s.pokesNow ps).memory = (s.pokes ps).memory := rfl
@[simp] theorem State.pokesNow_path (ps : List (Nat × List Byte)) : (s.pokesNow ps).path = s.path := by
  simp [State.pokesNow]
@[simp] theorem State.pokesNow_lines (ps : List (Nat × List Byte)) : (s.pokesNow ps).lines = s.lines := by
  simp [State.pokesNow]
@[simp] theorem State.record_memory (u : Requester) (ps : List (Nat × List Byte)) :
    (s.record u ps).memory = (s.pokes ps).memory := rfl
@[simp] theorem State.poke_memory (off : Nat) (bs : List Byte) :
    (s.poke off bs).memory = s.memory.write (s.regionBase + off) bs := rfl

@[simp] theorem State.configRecord_path (u : Requester) (off v : Nat) :
    (s.configRecord u off v).path = s.path := by simp [State.configRecord]
@[simp] theorem State.configRecord_request (u : Requester) (off v : Nat) :
    (s.configRecord u off v).request = s.request := by simp [State.configRecord]
@[simp] theorem State.configRecord_time (u : Requester) (off v : Nat) :
    (s.configRecord u off v).time = s.time := by simp [State.configRecord]
@[simp] theorem State.configRecord_store (u : Requester) (off v : Nat) :
    (s.configRecord u off v).store = s.store := by simp [State.configRecord]
@[simp] theorem State.configRecord_engine (u : Requester) (off v : Nat) :
    (s.configRecord u off v).engine = s.engine := by simp [State.configRecord]
@[simp] theorem State.configRecord_scan (u : Requester) (off v : Nat) :
    (s.configRecord u off v).scan = s.scan := by simp [State.configRecord]
@[simp] theorem State.configRecord_lines (u : Requester) (off v : Nat) :
    (s.configRecord u off v).lines = s.lines := by simp [State.configRecord]
@[simp] theorem State.configRecord_poorThreshold (u : Requester) (off v : Nat) :
    (s.configRecord u off v).poorThreshold = s.poorThreshold := by simp [State.configRecord]
@[simp] theorem State.configRecord_dispatcher (u : Requester) (off v : Nat) :
    (s.configRecord u off v).dispatcher = s.dispatcher := by simp [State.configRecord]
@[simp] theorem State.configRecord_charge (u : Requester) (off v : Nat) :
    (s.configRecord u off v).charge = s.charge := by simp [State.configRecord]
@[simp] theorem State.configRecord_print (u : Requester) (off v : Nat) :
    (s.configRecord u off v).print = s.print := by simp [State.configRecord]
@[simp] theorem State.configRecord_free (u : Requester) (off v : Nat) :
    (s.configRecord u off v).free = s.free := by simp [State.configRecord]
@[simp] theorem State.configRecord_pending (u : Requester) (off v : Nat) :
    (s.configRecord u off v).pending = s.pending := by simp [State.configRecord]

/-! ### What the updates set -/

@[simp] theorem State.line_setLine (l : LineNo) (x : LineChannel) : (s.setLine l x).line l = x := by
  simp [State.line, State.setLine]
theorem State.line_setLine_other {l m : LineNo} (h : m ≠ l) (x : LineChannel) :
    (s.setLine l x).line m = s.line m := by
  simp only [State.line, State.setLine]
  exact Vector.getElem_set_ne _ _ (fun e => h (Fin.ext e.symm))
theorem State.line_setLine_eq (l m : LineNo) (x : LineChannel) :
    (s.setLine l x).line m = if m = l then x else s.line m := by
  split
  · subst_vars; simp
  · exact s.line_setLine_other ‹_› x
@[simp] theorem State.setLine_setLine (l : LineNo) (x y : LineChannel) :
    (s.setLine l x).setLine l y = s.setLine l y := by simp [State.setLine]
@[simp] theorem State.meterOf_setMeter (l : LineNo) (m : Meter) : (s.setMeter l m).meterOf l = m := by
  simp [State.meterOf, State.setMeter]
@[simp] theorem State.lnContext_setLn (l : LineNo) (c : Option LineContext) :
    (s.setLn l c).lnContext l = c := by simp [State.lnContext, State.setLn]
@[simp] theorem State.compose_setCp (i : Fin 2) (c : Option ComposeContext) :
    (s.setCp i c).compose i = c := by simp [State.compose, State.setCp]
theorem State.compose_setCp_eq (i j : Fin 2) (c : Option ComposeContext) :
    (s.setCp i c).compose j = if j = i then c else s.compose j := by
  split
  · subst_vars; simp
  · simp only [State.compose, State.setCp]
    exact Vector.getElem_set_ne _ _ (fun e => ‹¬ j = i› (Fin.ext e.symm))
@[simp] theorem State.view_setRv (i : Fin 2) (v : Option ViewContext) : (s.setRv i v).view i = v := by
  simp [State.view, State.setRv]
theorem State.view_setRv_eq (i j : Fin 2) (v : Option ViewContext) :
    (s.setRv i v).view j = if j = i then v else s.view j := by
  split
  · subst_vars; simp
  · simp only [State.view, State.setRv]
    exact Vector.getElem_set_ne _ _ (fun e => ‹¬ j = i› (Fin.ext e.symm))
@[simp] theorem State.aperture_setAperture (e : Fin 8) (x : Aperture) :
    (s.setAperture e x).aperture e = x := by simp [State.aperture, State.setAperture]

end Sys2Proof.Machine
end

