-- ==== Sys2Proof/Laws/LinesLeft.lean ====
section
/-! SUPPORT. What the units other than the Line Channels do to the lines: nothing, but that a Line
Channel ceases to hold an awaited copy that is dropped or freed (R140). -/

-- One thread: the package as one text is checked under a memory limit, and each thread counts.
set_option Elab.async false

namespace Sys2Proof.Machine

/-- From s to t every line is as before, but for awaited copies that it has ceased to hold. -/
def LinesLeft (s t : State) : Prop :=
  ∀ l, ∃ ps : List Nat, t.line l = ps.foldl LineChannel.forgetAwaited (s.line l)

namespace LinesLeft

variable {s t u : State}

theorem refl (s : State) : LinesLeft s s := fun _ => ⟨[], rfl⟩

theorem trans (h : LinesLeft s t) (k : LinesLeft t u) : LinesLeft s u := fun l => by
  obtain ⟨ps, hp⟩ := h l
  obtain ⟨qs, hq⟩ := k l
  exact ⟨ps ++ qs, by rw [List.foldl_append, ← hp, hq]⟩

theorem sameLines (h : LinesLeft s t) (e : u.lines = t.lines) : LinesLeft s u := fun l => by
  obtain ⟨ps, hp⟩ := h l
  exact ⟨ps, by rw [← hp]; simp [State.line, e]⟩

/-- Any change of the fields beside the lines. -/
theorem fields (h : LinesLeft s t) {m : Memory} {p : PathUnit} {a : Arbiter} {r : RequestUnit}
    {b : TimeBase} {st : StoreUnit} {e : Engine} {sc : ScanUnit} {n : Nat} {d : Dispatcher}
    {c : ChargeUnit} {pr : PrintUnit} {f : Nat} {q : List Instr} :
    LinesLeft s { memory := m, path := p, arbiter := a, request := r, time := b, store := st,
                  engine := e, scan := sc, lines := t.lines, poorThreshold := n, dispatcher := d,
                  charge := c, print := pr, free := f, pending := q } := h.sameLines rfl

theorem foldl {α : Type} {f : State → α → State} (h : LinesLeft s t)
    (hf : ∀ u x, LinesLeft s u → LinesLeft s (f u x)) (xs : List α) : LinesLeft s (xs.foldl f t) := by
  induction xs generalizing t with
  | nil => exact h
  | cons x xs ih => exact ih (hf t x h)

theorem poke (h : LinesLeft s t) (off : Nat) (bs : List Byte) : LinesLeft s (t.poke off bs) :=
  h.sameLines rfl
theorem pokes (h : LinesLeft s t) (ps : List (Nat × List Byte)) : LinesLeft s (t.pokes ps) :=
  h.sameLines (by simp)
theorem record (h : LinesLeft s t) (r : Requester) (ps : List (Nat × List Byte)) :
    LinesLeft s (t.record r ps) := h.sameLines (by simp)

theorem readRecord (h : LinesLeft s t) (r : Requester) : LinesLeft s (t.readRecord r) := h.record r []
theorem configRecord (h : LinesLeft s t) (r : Requester) (off v : Nat) :
    LinesLeft s (t.configRecord r off v) := h.sameLines (by simp)
theorem pokesNow (h : LinesLeft s t) (ps : List (Nat × List Byte)) : LinesLeft s (t.pokesNow ps) :=
  h.sameLines (t.pokesNow_lines ps)
theorem holdTransfer (h : LinesLeft s t) (x : HeldTransfer) : LinesLeft s (t.holdTransfer x) :=
  h.sameLines rfl
theorem setFlag (h : LinesLeft s t) (f : StatusFlag) : LinesLeft s (t.setFlag f) := by
  unfold State.setFlag State.writeFlags
  split
  · exact h.holdTransfer _
  · with_reducible apply configRecord
    exact h.sameLines rfl
theorem setMeter (h : LinesLeft s t) (l : LineNo) (m : Meter) : LinesLeft s (t.setMeter l m) :=
  h.sameLines rfl
theorem setDesk (h : LinesLeft s t) (d : Nat) (x : DeskHeld) : LinesLeft s (t.setDesk d x) :=
  h.sameLines rfl
theorem setLn (h : LinesLeft s t) (l : LineNo) (c : Option LineContext) : LinesLeft s (t.setLn l c) :=
  h.sameLines rfl
theorem setCp (h : LinesLeft s t) (i : Fin 2) (c : Option ComposeContext) : LinesLeft s (t.setCp i c) :=
  h.sameLines rfl
theorem setRv (h : LinesLeft s t) (i : Fin 2) (v : Option ViewContext) : LinesLeft s (t.setRv i v) :=
  h.sameLines rfl
theorem endCycle (h : LinesLeft s t) (d : Option Word) : LinesLeft s (t.endCycle d) := h.sameLines rfl
theorem endError (h : LinesLeft s t) (c : Cycle) (e : BusError) : LinesLeft s (t.endError c e) := by
  unfold State.endError
  dsimp only
  split
  · exact h.sameLines rfl
  · with_reducible apply poke
    exact h.sameLines rfl

/-! ### Machine/Ops.lean -/

theorem advanceProduce (h : LinesLeft s t) : LinesLeft s t.advanceProduce := by
  unfold State.advanceProduce
  with_reducible apply configRecord
  exact h.sameLines rfl

theorem noticeRaised (h : LinesLeft s t) : LinesLeft s t.noticeRaised := h.sameLines rfl

theorem writeNotice (h : LinesLeft s t) (x : Notice) : LinesLeft s (t.writeNotice x) :=
  ((h.record _ _).noticeRaised).advanceProduce

theorem raise (h : LinesLeft s t) (x : Notice) :
    LinesLeft s (t.raise x) := by
  unfold State.raise
  repeat' first
    | with_reducible exact h
    | with_reducible apply writeNotice
    | with_reducible apply setFlag
    | with_reducible apply holdTransfer
    | with_reducible apply noticeRaised
    | split

/-! ### Machine/Store.lean -/

theorem pageRecord (h : LinesLeft s t) (p : Nat) (pieces : List (Nat × List Byte)) :
    LinesLeft s (t.pageRecord p pieces) := by
  unfold State.pageRecord
  repeat' first
    | with_reducible exact h
    | with_reducible apply record

theorem setReferences (h : LinesLeft s t) (p n : Nat) (flags : Byte) :
    LinesLeft s (t.setReferences p n flags) := by
  unfold State.setReferences
  dsimp only
  repeat' first
    | with_reducible exact h
    | with_reducible apply pageRecord
    | with_reducible apply fields

theorem setDepth (h : LinesLeft s t) (d : Nat) :
    LinesLeft s (t.setDepth d) := by
  unfold State.setDepth
  repeat' first
    | with_reducible exact h
    | with_reducible apply configRecord
    | with_reducible apply fields

theorem pushLeaf (h : LinesLeft s t) (leaf : Nat) :
    LinesLeft s (t.pushLeaf leaf) := by
  unfold State.pushLeaf
  repeat' first
    | with_reducible exact h
    | with_reducible apply record
    | with_reducible apply setDepth

theorem storeAvailable (h : LinesLeft s t) :
    LinesLeft s (t.storeAvailable) := by
  unfold State.storeAvailable
  repeat' first
    | with_reducible exact h
    | split
    | with_reducible apply fields

theorem checkLow (h : LinesLeft s t) :
    LinesLeft s (t.checkLow) := by
  unfold State.checkLow
  dsimp only
  repeat' first
    | with_reducible exact h
    | with_reducible apply raise
    | with_reducible apply storeAvailable
    | split
    | with_reducible apply fields

theorem createPage (h : LinesLeft s t) {o : Origin} {r : Resolution} {tag : Tag} {p : Nat}
    (e : t.createPage o r tag = some (u, p)) : LinesLeft s u := by
  unfold State.createPage at e
  split at e
  · split at e
    · cases e
    · cases e
      with_reducible apply pageRecord
      exact h.sameLines rfl
  · cases e

theorem allocate (h : LinesLeft s t) {p : Nat} (e : t.allocate p = some u) : LinesLeft s u := by
  unfold State.allocate at e
  split at e
  · cases e
    with_reducible apply checkLow
    exact (h.setDepth _).pokesNow _
  · cases e

theorem writeStreamBit (h : LinesLeft s t) (chain : List Nat) (k : Nat) (bit : Bool) :
    LinesLeft s (t.writeStreamBit chain k bit) := by
  unfold State.writeStreamBit
  repeat' first
    | with_reducible exact h
    | split
    | with_reducible apply fields

theorem writeStream (h : LinesLeft s t) (chain : List Nat) (k : Nat) (bits : List Bool) :
    LinesLeft s (t.writeStream chain k bits) := by
  induction bits generalizing t k with
  | nil => exact h
  | cons b bs ih => exact ih (h.writeStreamBit _ _ _) _

theorem makeRoom (h : LinesLeft s t) {p n : Nat} (e : t.makeRoom p n = some u) : LinesLeft s u := by
  unfold State.makeRoom at e
  split at e
  · cases e; exact h
  · exact h.allocate e

theorem commit (h : LinesLeft s t) {p : Nat} {bits : List Bool} {extra : List (Nat × List Byte)}
    (e : t.commit p bits extra = .made u) : LinesLeft s u := by
  unfold State.commit at e
  split at e
  · cases e
  · split at e
    · cases e
    · split at e
      · cases e
      · cases e
        exact ((h.makeRoom ‹_›).writeStream _ _ _).pokesNow _

theorem tellAwaited (h : LinesLeft s t) (p : Nat) : LinesLeft s (t.tellAwaited p) :=
  h.trans fun l => ⟨[p], by simp [State.tellAwaited, State.line]⟩

theorem tellDropped (h : LinesLeft s t) (p : Nat) :
    LinesLeft s (t.tellDropped p) := by
  unfold State.tellDropped
  repeat' first
    | with_reducible exact h
    | with_reducible apply setRv
    | with_reducible apply endCycle
    | split

theorem tellSealed (h : LinesLeft s t) (p : Nat) :
    LinesLeft s (t.tellSealed p) := by
  unfold State.tellSealed
  repeat' first
    | with_reducible exact h
    | with_reducible apply setRv
    | with_reducible apply endCycle
    | split

theorem freePage (h : LinesLeft s t) (p : Nat) :
    LinesLeft s (t.freePage p) := by
  unfold State.freePage
  dsimp only
  repeat' first
    | with_reducible exact h
    | with_reducible apply pushLeaf
    | with_reducible apply pageRecord
    | with_reducible apply tellAwaited
    | with_reducible apply checkLow
    | with_reducible assumption
    | with_reducible refine foldl ?_ (fun _ _ k => ?_) _
    | with_reducible apply fields

theorem freeIfDone (h : LinesLeft s t) (p : Nat) :
    LinesLeft s (t.freeIfDone p) := by
  unfold State.freeIfDone
  repeat' first
    | with_reducible exact h
    | with_reducible apply freePage
    | split

theorem sealPage (h : LinesLeft s t) (p : Nat) (flags : Byte) :
    LinesLeft s (t.sealPage p flags) := by
  unfold State.sealPage
  dsimp only
  repeat' first
    | with_reducible exact h
    | with_reducible apply pageRecord
    | with_reducible apply raise
    | with_reducible apply tellSealed
    | with_reducible apply freeIfDone
    | split

theorem dropPage (h : LinesLeft s t) (p : Nat) (code : Nat) :
    LinesLeft s (t.dropPage p code) := by
  unfold State.dropPage
  dsimp only
  repeat' first
    | with_reducible exact h
    | with_reducible apply pageRecord
    | with_reducible apply raise
    | with_reducible apply tellAwaited
    | with_reducible apply tellDropped
    | with_reducible apply freeIfDone
    | split
    | with_reducible apply fields

theorem takeReference (h : LinesLeft s t) {p : Nat} {states : List PageState} {limit : Nat}
    (e : t.takeReference p states limit = some u) : LinesLeft s u := by
  unfold State.takeReference at e
  split at e
  · cases e; exact h.setReferences _ _ _
  · cases e

theorem dropReference (h : LinesLeft s t) (p : Nat) :
    LinesLeft s (t.dropReference p) := by
  unfold State.dropReference
  repeat' first
    | with_reducible exact h
    | with_reducible apply setReferences
    | with_reducible apply freeIfDone

theorem dropOwner (h : LinesLeft s t) (p : Nat) :
    LinesLeft s (t.dropOwner p) := by
  unfold State.dropOwner
  repeat' first
    | with_reducible exact h
    | with_reducible apply setReferences
    | with_reducible apply freeIfDone

/-! ### Machine/Print.lean -/

theorem setSlot (h : LinesLeft s t) (n : Nat) (x : Slot) :
    LinesLeft s (t.setSlot n x) := by
  unfold State.setSlot
  repeat' first
    | with_reducible exact h
    | with_reducible apply record

theorem enterQueue (h : LinesLeft s t) (n p copies : Nat) (urgent auto : Bool) :
    LinesLeft s (t.enterQueue n p copies urgent auto) := by
  unfold State.enterQueue
  dsimp only
  repeat' first
    | with_reducible exact h
    | with_reducible apply setSlot
    | with_reducible apply fields

theorem leaveQueue (h : LinesLeft s t) (n : Nat) :
    LinesLeft s (t.leaveQueue n) := by
  unfold State.leaveQueue
  repeat' first
    | with_reducible exact h
    | with_reducible apply setSlot
    | with_reducible apply dropReference

theorem raisePrintDone (h : LinesLeft s t) (p n done code : Nat) :
    LinesLeft s (t.raisePrintDone p n done code) := by
  unfold State.raisePrintDone
  repeat' first
    | with_reducible exact h
    | with_reducible apply raise

theorem raisePaperOut (h : LinesLeft s t) (v : Nat) :
    LinesLeft s (t.raisePaperOut v) := by
  unfold State.raisePaperOut
  repeat' first
    | with_reducible exact h
    | with_reducible apply raise

theorem releasePr (h : LinesLeft s t) :
    LinesLeft s (t.releasePr) := by
  unfold State.releasePr
  repeat' first
    | with_reducible exact h
    | with_reducible apply fields

theorem startCut (h : LinesLeft s t) :
    LinesLeft s (t.startCut) := by
  unfold State.startCut
  repeat' first
    | with_reducible exact h
    | with_reducible apply fields

theorem beginCopy (h : LinesLeft s t) (n : Nat) :
    LinesLeft s (t.beginCopy n) := by
  unfold State.beginCopy
  dsimp only
  repeat' first
    | with_reducible exact h
    | with_reducible apply setSlot
    | with_reducible apply startCut
    | split
    | with_reducible apply fields

theorem takeHeadN (h : LinesLeft s t) (n : Nat) : LinesLeft s (State.takeHeadN n t) := by
  induction n generalizing t with
  | zero => exact h
  | succ n ih =>
    unfold State.takeHeadN
    split
    · split
      · exact h
      · dsimp only
        split
        · exact ih ((((h.setSlot _ _).releasePr).leaveQueue _).raisePrintDone _ _ _ _)
        · exact h.beginCopy _
    · exact h

theorem takeHead (h : LinesLeft s t) : LinesLeft s t.takeHead := h.takeHeadN 32

theorem afterCut (h : LinesLeft s t) :
    LinesLeft s (t.afterCut) := by
  unfold State.afterCut
  dsimp only
  repeat' first
    | with_reducible exact h
    | with_reducible apply takeHead
    | with_reducible apply raisePaperOut
    | split
    | with_reducible apply fields

theorem cutComplete (h : LinesLeft s t) :
    LinesLeft s (t.cutComplete) := by
  unfold State.cutComplete
  dsimp only
  repeat' first
    | with_reducible exact h
    | with_reducible apply afterCut
    | with_reducible apply releasePr
    | with_reducible apply leaveQueue
    | with_reducible apply raisePrintDone
    | with_reducible apply setSlot
    | split

theorem burn (h : LinesLeft s t) (x : Raster) (r : Resolution) :
    LinesLeft s (t.burn x r) := by
  unfold State.burn
  repeat' first
    | with_reducible exact h
    | split
    | with_reducible apply fields

theorem throughCut (h : LinesLeft s t) :
    LinesLeft s (t.throughCut) := by
  unfold State.throughCut
  repeat' first
    | with_reducible exact h
    | with_reducible apply startCut
    | split
    | with_reducible apply fields

theorem lineDone (h : LinesLeft s t) :
    LinesLeft s (t.lineDone) := by
  unfold State.lineDone
  dsimp only
  repeat' first
    | with_reducible exact h
    | with_reducible apply burn
    | with_reducible apply releasePr
    | with_reducible apply startCut
    | with_reducible apply throughCut
    | split

theorem prGrant (h : LinesLeft s t) :
    LinesLeft s (t.prGrant) := by
  unfold State.prGrant
  dsimp only
  repeat' first
    | with_reducible exact h
    | split
    | with_reducible apply fields

theorem cancelItem (h : LinesLeft s t) (n : Nat) :
    LinesLeft s (t.cancelItem n) := by
  unfold State.cancelItem
  dsimp only
  repeat' first
    | with_reducible exact h
    | with_reducible apply leaveQueue
    | with_reducible apply raisePrintDone
    | with_reducible apply setSlot
    | with_reducible apply releasePr
    | with_reducible apply startCut
    | split

theorem abandonCopy (h : LinesLeft s t) :
    LinesLeft s (t.abandonCopy) := by
  unfold State.abandonCopy
  dsimp only
  repeat' first
    | with_reducible exact h
    | with_reducible apply releasePr
    | with_reducible apply leaveQueue
    | with_reducible apply raisePrintDone
    | with_reducible apply setSlot
    | split
    | with_reducible apply fields

theorem losePaper (h : LinesLeft s t) :
    LinesLeft s (t.losePaper) := by
  unfold State.losePaper
  dsimp only
  repeat' first
    | with_reducible exact h
    | with_reducible apply raisePaperOut
    | with_reducible apply abandonCopy
    | with_reducible apply throughCut
    | split
    | with_reducible apply fields

theorem returnPaper (h : LinesLeft s t) :
    LinesLeft s (t.returnPaper) := by
  unfold State.returnPaper
  dsimp only
  repeat' first
    | with_reducible exact h
    | with_reducible apply takeHead
    | split
    | with_reducible apply fields

theorem readPaper (h : LinesLeft s t) :
    LinesLeft s (t.readPaper) := by
  unfold State.readPaper
  repeat' first
    | with_reducible exact h
    | with_reducible apply takeHead
    | with_reducible apply raisePaperOut
    | split
    | with_reducible apply fields

theorem grantThrough (h : LinesLeft s t) {l : LineNo} {r : Resolution} (e : t.grantThrough l r = some u) :
    LinesLeft s u := by
  unfold State.grantThrough at e
  split at e
  · cases e; exact h.sameLines rfl
  · cases e

theorem handThrough (h : LinesLeft s t) (x : Raster) :
    LinesLeft s (t.handThrough x) := by
  unfold State.handThrough
  repeat' first
    | with_reducible exact h
    | split
    | with_reducible apply fields

theorem endThrough (h : LinesLeft s t) (l : LineNo) :
    LinesLeft s (t.endThrough l) := by
  unfold State.endThrough
  repeat' first
    | with_reducible exact h
    | with_reducible apply throughCut
    | split
    | with_reducible apply fields

theorem autoPrint (h : LinesLeft s t) (p : Nat) :
    LinesLeft s (t.autoPrint p) := by
  unfold State.autoPrint
  repeat' first
    | with_reducible exact h
    | with_reducible refine takeReference ?_ (by assumption)
    | with_reducible apply enterQueue
    | with_reducible apply takeHead
    | split

/-! ### Machine/Charge.lean -/

theorem writeDesk (h : LinesLeft s t) (d total cap calls pages : Nat) :
    LinesLeft s (t.writeDesk d total cap calls pages) := by
  unfold State.writeDesk
  repeat' first
    | with_reducible exact h
    | with_reducible apply record

theorem capLine (h : LinesLeft s t) (d : Nat) (l : LineNo) :
    LinesLeft s (t.capLine d l) := by
  unfold State.capLine
  dsimp only
  repeat' first
    | with_reducible exact h
    | with_reducible apply setMeter
    | split
    | with_reducible apply fields

theorem enterCapped (h : LinesLeft s t) (d : Nat) :
    LinesLeft s (t.enterCapped d) := by
  unfold State.enterCapped
  dsimp only
  repeat' first
    | with_reducible exact h
    | with_reducible apply setDesk
    | with_reducible apply writeDesk
    | with_reducible apply raise
    | with_reducible apply capLine
    | with_reducible assumption
    | with_reducible refine foldl ?_ (fun _ _ k => ?_) _

theorem checkCap (h : LinesLeft s t) (d : Nat) :
    LinesLeft s (t.checkCap d) := by
  unfold State.checkCap
  repeat' first
    | with_reducible exact h
    | with_reducible apply enterCapped
    | with_reducible apply readRecord
    | split

theorem startMeter (h : LinesLeft s t) (l : LineNo) (job destination desk : Nat) (c : LineConfig) :
    LinesLeft s (t.startMeter l job destination desk c) := by
  unfold State.startMeter
  dsimp only
  repeat' first
    | with_reducible exact h
    | with_reducible apply setMeter
    | split
    | with_reducible apply fields

theorem startUnit (h : LinesLeft s t) (l : LineNo) (from_ : BitVec 32) :
    LinesLeft s (t.startUnit l from_) := by
  unfold State.startUnit
  dsimp only
  repeat' first
    | with_reducible exact h
    | with_reducible apply readRecord
    | with_reducible apply setMeter
    | with_reducible apply checkCap

theorem connectMeter (h : LinesLeft s t) (l : LineNo) :
    LinesLeft s (t.connectMeter l) := by
  unfold State.connectMeter
  dsimp only
  repeat' first
    | with_reducible exact h
    | with_reducible apply setMeter
    | with_reducible apply startUnit
    | split

theorem expireUnit (h : LinesLeft s t) (l : LineNo) :
    LinesLeft s (t.expireUnit l) := by
  unfold State.expireUnit
  repeat' first
    | with_reducible exact h
    | with_reducible apply startUnit
    | split

theorem countPulse (h : LinesLeft s t) (l : LineNo) :
    LinesLeft s (t.countPulse l) := by
  unfold State.countPulse
  dsimp only
  repeat' first
    | with_reducible exact h
    | with_reducible apply setMeter
    | with_reducible apply checkCap
    | split

theorem meterPageBegun (h : LinesLeft s t) (l : LineNo) :
    LinesLeft s (t.meterPageBegun l) := by
  unfold State.meterPageBegun
  repeat' first
    | with_reducible exact h
    | with_reducible apply setMeter

theorem meterVerdict (h : LinesLeft s t) (l : LineNo) : LinesLeft s (t.meterVerdict l).1 :=
  h.setMeter _ _

theorem writeLog (h : LinesLeft s t) (bytes : List Byte) :
    LinesLeft s (t.writeLog bytes) := by
  unfold State.writeLog
  dsimp only
  repeat' first
    | with_reducible exact h
    | with_reducible apply record
    | with_reducible apply fields

theorem releaseOutgoing (h : LinesLeft s t) (x : ReleaseFacts) (number : List Nibble) :
    LinesLeft s (t.releaseOutgoing x number) := by
  unfold State.releaseOutgoing
  dsimp only
  repeat' first
    | with_reducible exact h
    | with_reducible apply writeLog
    | with_reducible apply writeDesk
    | with_reducible apply setMeter
    | with_reducible apply checkCap

theorem releaseIncoming (h : LinesLeft s t) (x : ReleaseFacts) (seizure : Stamp) (connect : Option Stamp) :
    LinesLeft s (t.releaseIncoming x seizure connect) := by
  unfold State.releaseIncoming
  repeat' first
    | with_reducible exact h
    | with_reducible apply writeLog

theorem discardMeter (h : LinesLeft s t) (l : LineNo) :
    LinesLeft s (t.discardMeter l) := by
  unfold State.discardMeter
  repeat' first
    | with_reducible exact h
    | with_reducible apply setMeter

theorem clearCapPending (h : LinesLeft s t) (d : Nat) :
    LinesLeft s (t.clearCapPending d) := by
  unfold State.clearCapPending
  dsimp only
  repeat' first
    | with_reducible exact h
    | with_reducible apply setMeter
    | with_reducible assumption
    | with_reducible refine foldl ?_ (fun _ _ k => ?_) _
    | split

theorem settleDesk (h : LinesLeft s t) (d cap markup : Nat) (clear : Bool) :
    LinesLeft s (t.settleDesk d cap markup clear) := by
  unfold State.settleDesk
  dsimp only
  repeat' first
    | with_reducible exact h
    | with_reducible apply setDesk
    | with_reducible apply writeDesk
    | with_reducible apply enterCapped
    | with_reducible apply clearCapPending
    | split

/-! ### Machine/Dispatcher.lean -/

theorem setJob (h : LinesLeft s t) (j : Nat) (x : JobStatus) :
    LinesLeft s (t.setJob j x) := by
  unfold State.setJob
  repeat' first
    | with_reducible exact h
    | with_reducible apply record

theorem setDestination (h : LinesLeft s t) (j d : Nat) (x : Destination) :
    LinesLeft s (t.setDestination j d x) := by
  unfold State.setDestination
  repeat' first
    | with_reducible exact h
    | with_reducible apply record

theorem raiseJobDone (h : LinesLeft s t) (j : Nat) :
    LinesLeft s (t.raiseJobDone j) := by
  unfold State.raiseJobDone
  dsimp only
  repeat' first
    | with_reducible exact h
    | with_reducible apply raise

theorem finishJob (h : LinesLeft s t) (j : Nat) :
    LinesLeft s (t.finishJob j) := by
  unfold State.finishJob
  dsimp only
  repeat' first
    | with_reducible exact h
    | with_reducible apply dropReference
    | with_reducible apply setJob
    | with_reducible apply raiseJobDone
    | with_reducible assumption
    | with_reducible refine foldl ?_ (fun _ _ k => ?_) _
    | with_reducible apply fields

theorem checkComplete (h : LinesLeft s t) (j : Nat) :
    LinesLeft s (t.checkComplete j) := by
  unfold State.checkComplete
  repeat' first
    | with_reducible exact h
    | with_reducible apply finishJob
    | split

theorem applyOutcome (h : LinesLeft s t) (j d : Nat) (e : AttemptEnd) :
    LinesLeft s (t.applyOutcome j d e) := by
  unfold State.applyOutcome
  dsimp only
  repeat' first
    | with_reducible exact h
    | with_reducible apply setDestination
    | with_reducible apply setJob
    | with_reducible apply raise
    | with_reducible apply checkComplete
    | split

theorem takeReferenceOr (h : LinesLeft s t) (p : Nat) (states : List PageState) (limit : Nat) :
    LinesLeft s ((t.takeReference p states limit).getD t) := by
  cases e : t.takeReference p states limit with
  | none => exact h
  | some u => exact h.takeReference e

theorem listReference (h : LinesLeft s t) (p : Nat) : LinesLeft s (t.listReference p) :=
  h.takeReferenceOr _ _ _

theorem submit (h : LinesLeft s t) (j : Nat) :
    LinesLeft s (t.submit j) := by
  unfold State.submit
  dsimp only
  repeat' first
    | with_reducible exact h
    | with_reducible apply setDestination
    | with_reducible apply listReference
    | with_reducible apply setJob
    | with_reducible apply raiseJobDone
    | with_reducible assumption
    | with_reducible refine foldl ?_ (fun _ _ k => ?_) _
    | split
    | with_reducible apply fields

theorem cancelPending (h : LinesLeft s t) (j : Nat) :
    LinesLeft s (t.cancelPending j) := by
  unfold State.cancelPending
  repeat' first
    | with_reducible exact h
    | with_reducible apply setDestination
    | with_reducible assumption
    | with_reducible refine foldl ?_ (fun _ _ k => ?_) _
    | split

theorem cancelJob (h : LinesLeft s t) (j : Nat) :
    LinesLeft s (t.cancelJob j) := by
  unfold State.cancelJob
  dsimp only
  repeat' first
    | with_reducible exact h
    | with_reducible apply cancelPending
    | with_reducible apply setJob
    | with_reducible apply checkComplete

/-! ### Machine/Lines.lean -/

theorem syncLine (h : LinesLeft s t) (l : LineNo) :
    LinesLeft s (t.syncLine l) := by
  unfold State.syncLine
  repeat' first
    | with_reducible exact h
    | with_reducible apply record
    | split

theorem syncLines (h : LinesLeft s t) :
    LinesLeft s (t.syncLines) := by
  unfold State.syncLines
  repeat' first
    | with_reducible exact h
    | with_reducible apply syncLine
    | with_reducible assumption
    | with_reducible refine foldl ?_ (fun _ _ k => ?_) _

/-! ### What follows -/

theorem forgotten_same (ps : List Nat) (x : LineChannel) :
    (ps.foldl LineChannel.forgetAwaited x).received = x.received
      ∧ (x.link = none → ps.foldl LineChannel.forgetAwaited x = x) := by
  induction ps generalizing x with
  | nil => exact ⟨rfl, fun _ => rfl⟩
  | cons p ps ih =>
    have one : (x.forgetAwaited p).received = x.received ∧ (x.link = none → x.forgetAwaited p = x) := by
      unfold LineChannel.forgetAwaited
      split
      · split
        · split <;> simp_all
        · exact ⟨rfl, fun _ => rfl⟩
      · exact ⟨rfl, fun _ => rfl⟩
    refine ⟨(ih _).1.trans one.1, fun e => ?_⟩
    rw [List.foldl_cons, one.2 e]
    exact (ih x).2 e

/-- The receive parcel buffers are as before. -/
theorem received (h : LinesLeft s t) (l : LineNo) : (t.line l).received = (s.line l).received := by
  obtain ⟨ps, hp⟩ := h l
  rw [hp]; exact (forgotten_same ps _).1

/-- A line without a link state is as before. -/
theorem unlinked (h : LinesLeft s t) {l : LineNo} (e : (s.line l).link = none) :
    t.line l = s.line l := by
  obtain ⟨ps, hp⟩ := h l
  rw [hp]; exact (forgotten_same ps _).2 e

end LinesLeft

end Sys2Proof.Machine
end

