-- ==== Sys2Proof/Laws/Memory.lean ====
section
/-! SUPPORT. What reading and writing DRAM do: a write changes its own bytes and no other, and every
memory operation keeps the canonical form. -/

-- One thread: the package as one text is checked under a memory limit, and each thread counts.
set_option Elab.async false

namespace Sys2Proof.Machine

/-! ### The cells of a run of bytes -/

/-- The cells of a run of bytes lie within the run. -/
theorem Memory.cells_range {a : Nat} {bs : List Byte} {c : Host.Cell} (h : c ∈ Memory.cells a bs) :
    a ≤ c.1 ∧ c.1 < a + bs.length := by
  induction bs generalizing a with
  | nil => simp [Memory.cells] at h
  | cons b bs ih =>
    simp only [Memory.cells] at h
    split at h
    · have := ih h; simp; omega
    · rcases List.mem_cons.1 h with rfl | h
      · simp
      · have := ih h; simp; omega

/-- The cells of a run of bytes are in the canonical form. -/
theorem Memory.cells_wf (a : Nat) (bs : List Byte) : (Memory.cells a bs).wf := by
  induction bs generalizing a with
  | nil => simp [Memory.cells, Memory.wf]
  | cons b bs ih =>
    simp only [Memory.cells]
    split
    · exact ih _
    · rename_i hb
      obtain ⟨h1, h2⟩ := ih (a + 1)
      refine ⟨List.pairwise_cons.2 ⟨fun c hc => ?_, h1⟩, fun c hc => ?_⟩
      · have := (Memory.cells_range hc).1; simp; omega
      · rcases List.mem_cons.1 hc with rfl | hc
        · exact hb
        · exact h2 c hc

/-- Reading a byte within a run of cells. -/
theorem Memory.read_cells (a : Nat) (bs : List Byte) (x : Nat) :
    Memory.read (Memory.cells a bs) x
      = if a ≤ x ∧ x < a + bs.length then bs.getD (x - a) 0 else Memory.unwritten := by
  induction bs generalizing a with
  | nil => simp [Memory.cells, Memory.read]
  | cons b bs ih =>
    have key : Memory.read (Memory.cells a (b :: bs)) x
        = if a = x then b else Memory.read (Memory.cells (a + 1) bs) x := by
      by_cases hb : b = Memory.unwritten
      · simp only [Memory.cells, if_pos hb]
        split
        · subst_vars
          rw [ih, if_neg (by omega)]
        · rfl
      · by_cases hx : a = x <;> simp [Memory.cells, if_neg hb, Memory.read, hx]
    rw [key]
    by_cases hx : a = x
    · subst hx; simp
    · rw [if_neg hx, ih]
      by_cases h : a + 1 ≤ x ∧ x < a + 1 + bs.length
      · rw [if_pos h, if_pos (by simp; omega)]
        obtain ⟨k, hk⟩ : ∃ k, x - a = k + 1 := ⟨x - a - 1, by omega⟩
        rw [hk, List.getD_cons_succ]
        congr 1
        omega
      · rw [if_neg h, if_neg (by simp; omega)]

/-! ### Reading after writing -/

/-- Reading in two lists of cells one after the other. -/
theorem Memory.read_append (m n : Memory) (x : Nat) :
    Memory.read (m ++ n) x = if (m.any fun c => c.1 == x) then Memory.read m x else Memory.read n x := by
  induction m with
  | nil => simp
  | cons c m ih =>
    by_cases h : c.1 = x
    · simp [Memory.read, h]
    · have e : (c.1 == x) = false := by simpa using h
      simp only [List.cons_append, Memory.read, List.find?_cons, e, List.any_cons, Bool.false_or]
      exact ih

/-- Keeping only cells that a test on their address accepts does not change a byte it accepts. -/
theorem Memory.read_filter {p : Nat → Bool} {m : Memory} {x : Nat} (h : p x = true) :
    Memory.read (m.filter fun c => p c.1) x = Memory.read m x := by
  induction m with
  | nil => rfl
  | cons c m ih =>
    by_cases hc : c.1 = x
    · simp [Memory.read, hc, h]
    · have e : (c.1 == x) = false := by simpa using hc
      by_cases hp : p c.1 <;>
        simpa [List.filter_cons, hp, Memory.read, List.find?_cons, e] using ih

/-- A byte after a write of bytes from an address up: the byte written there, or the byte before. -/
theorem Memory.read_write (m : Memory) (a : Nat) (bs : List Byte) (x : Nat) :
    (m.write a bs).read x
      = if a ≤ x ∧ x < a + bs.length then bs.getD (x - a) 0 else m.read x := by
  unfold Memory.write
  rw [Memory.read_append, Memory.read_append]
  have unlisted (n : Memory) (h : (n.any fun c => c.1 == x) = false) :
      Memory.read n x = Memory.unwritten := by
    unfold Memory.read
    rw [List.find?_eq_none.2 (by simpa using h)]
  have none_of (n : Memory) (h : ∀ c ∈ n, c.1 ≠ x) :
      (n.any fun c => c.1 == x) = false ∧ Memory.read n x = Memory.unwritten := by
    have e : (n.any fun c => c.1 == x) = false := by simpa using h
    exact ⟨e, unlisted n e⟩
  by_cases h : a ≤ x ∧ x < a + bs.length
  · have lo := none_of (m.filter fun c => decide (c.1 < a)) (by simp; omega)
    have hi := none_of (m.filter fun c => decide (a + bs.length ≤ c.1)) (by simp; omega)
    rw [if_pos h]
    simp only [List.any_append, lo.1, Bool.false_or]
    have rc := Memory.read_cells a bs x
    rw [if_pos h] at rc
    split
    · simpa using rc
    · rename_i hc
      rw [hi.2, ← rc]
      exact (unlisted _ (Bool.eq_false_iff.2 hc)).symm
  · have mid := none_of (Memory.cells a bs)
      (fun c hc e => h (e ▸ Memory.cells_range hc))
    rw [if_neg h]
    simp only [List.any_append, mid.1, Bool.or_false]
    by_cases hl : x < a
    · have hi := none_of (m.filter fun c => decide (a + bs.length ≤ c.1)) (by simp; omega)
      have f := Memory.read_filter (p := fun i => decide (i < a)) (m := m) (x := x) (by simpa using hl)
      split
      · simpa using f
      · rename_i hc
        rw [hi.2, ← f]
        exact (unlisted _ (Bool.eq_false_iff.2 hc)).symm
    · have lo := none_of (m.filter fun c => decide (c.1 < a)) (by simp; omega)
      rw [lo.1]
      simpa using Memory.read_filter (p := fun i => decide (a + bs.length ≤ i)) (m := m) (x := x)
        (by simp; omega)

/-- A byte outside the bytes written is as before. -/
theorem Memory.read_write_outside {m : Memory} {a : Nat} {bs : List Byte} {x : Nat}
    (h : x < a ∨ a + bs.length ≤ x) : (m.write a bs).read x = m.read x := by
  rw [Memory.read_write, if_neg (by omega)]

/-- A write over the same bytes leaves only the later one. -/
theorem Memory.write_write {m : Memory} {a : Nat} {bs cs : List Byte} (h : bs.length = cs.length) :
    (m.write a bs).write a cs = m.write a cs := by
  have lo : (Memory.cells a bs).filter (fun c => decide (c.1 < a)) = [] := by
    rw [List.filter_eq_nil_iff]
    intro c hc; have := (Memory.cells_range hc).1; simp; omega
  have hi : (Memory.cells a bs).filter (fun c => decide (a + cs.length ≤ c.1)) = [] := by
    rw [List.filter_eq_nil_iff]
    intro c hc; have := (Memory.cells_range hc).2; simp; omega
  simp only [Memory.write, List.filter_append, List.filter_filter, lo, hi, h, List.append_nil]
  congr 1
  · congr 1
    have : (m.filter fun c => decide (c.1 < a) && decide (a + cs.length ≤ c.1)) = [] := by
      rw [List.filter_eq_nil_iff]; intro c _; simp; omega
    simp only [this, List.append_nil]
    congr 1; funext c; simp
  · have : (m.filter fun c => decide (a + cs.length ≤ c.1) && decide (c.1 < a)) = [] := by
      rw [List.filter_eq_nil_iff]; intro c _; simp; omega
    simp only [this, List.nil_append]
    congr 1; funext c; simp

/-! ### Runs of bytes and fields -/

/-- A run of bytes that a write does not touch is as before. -/
theorem Memory.readBytes_write_outside {m : Memory} {a x n : Nat} {bs : List Byte}
    (h : x + n ≤ a ∨ a + bs.length ≤ x) : (m.write a bs).readBytes x n = m.readBytes x n := by
  unfold Memory.readBytes
  refine List.map_congr_left fun i hi => Memory.read_write_outside ?_
  have := List.mem_range.1 hi
  omega

/-- A run of bytes within a write reads as the bytes written. -/
theorem Memory.readBytes_write_inside {m : Memory} {a x n : Nat} {bs : List Byte}
    (h : a ≤ x ∧ x + n ≤ a + bs.length) :
    (m.write a bs).readBytes x n = (bs.drop (x - a)).take n := by
  unfold Memory.readBytes
  refine List.ext_getElem (by simp; omega) fun i h1 h2 => ?_
  have hi : i < n := by simpa using h1
  rw [List.getElem_map, List.getElem_range, Memory.read_write, if_pos (by omega)]
  rw [List.getElem_take, List.getElem_drop, List.getD_eq_getElem?_getD]
  rw [List.getElem?_eq_getElem (by omega)]
  simp only [Option.getD_some]
  congr 1
  omega

/-- The whole run written reads back. -/
theorem Memory.readBytes_write_self (m : Memory) (a : Nat) (bs : List Byte) :
    (m.write a bs).readBytes a bs.length = bs := by
  rw [Memory.readBytes_write_inside (by omega)]; simp

/-- A field that a write does not touch is as before. -/
theorem Memory.readValue_write_outside {m : Memory} {a x n : Nat} {bs : List Byte}
    (h : x + n ≤ a ∨ a + bs.length ≤ x) : (m.write a bs).readValue x n = m.readValue x n := by
  unfold Memory.readValue; rw [Memory.readBytes_write_outside h]

/-- A word that a write does not touch is as before. -/
theorem Memory.readWord_write_outside {m : Memory} {a x : Nat} {bs : List Byte}
    (h : x + 4 ≤ a ∨ a + bs.length ≤ x) : (m.write a bs).readWord x = m.readWord x := by
  unfold Memory.readWord; rw [Memory.readValue_write_outside h]

@[simp] theorem Memory.readBytes_length (m : Memory) (a n : Nat) : (m.readBytes a n).length = n := by
  simp [Memory.readBytes]

@[simp] theorem Memory.merged_length (m : Memory) (a : Nat) (d : Word) (be : Enables) :
    (m.merged a d be).length = 4 := by simp [Memory.merged]

/-! ### The canonical form -/

/-- A write of bytes keeps the canonical form. -/
theorem Memory.wf_write {m : Memory} (h : m.wf) (a : Nat) (bs : List Byte) : (m.write a bs).wf := by
  obtain ⟨h1, h2⟩ := h
  obtain ⟨c1, c2⟩ := Memory.cells_wf a bs
  refine ⟨?_, ?_⟩
  · unfold Memory.write
    refine List.pairwise_append.2 ⟨List.pairwise_append.2 ⟨h1.filter _, c1, ?_⟩, h1.filter _, ?_⟩
    · intro x hx y hy
      have := (Memory.cells_range hy).1
      simp at hx; omega
    · intro x hx y hy
      simp at hy
      rcases List.mem_append.1 hx with hx | hx
      · simp at hx; omega
      · have := (Memory.cells_range hx).2; omega
  · intro c hc
    simp only [Memory.write, List.mem_append, List.mem_filter] at hc
    rcases hc with (hc | hc) | hc
    · exact h2 c hc.1
    · exact c2 c hc
    · exact h2 c hc.1

/-- A word write keeps the canonical form. -/
theorem Memory.wf_writeWord {m : Memory} (h : m.wf) (a : Nat) (d : Word) (be : Enables) :
    (m.writeWord a d be).wf := Memory.wf_write h _ _

/-- A bit write keeps the canonical form. -/
theorem Memory.wf_writeBit {m : Memory} (h : m.wf) (a i : Nat) (b : Bool) : (m.writeBit a i b).wf :=
  Memory.wf_write h _ _

/-- The empty memory is in the canonical form. -/
theorem Memory.wf_nil : Memory.wf [] := by simp [Memory.wf]

/-- A byte after a word write: the data's byte where its enable is set, the byte before otherwise. -/
theorem Memory.read_writeWord (m : Memory) (a : Nat) (d : Word) (be : Enables) (x : Nat) :
    (m.writeWord a d be).read x
      = if a ≤ x ∧ x < a + 4 ∧ be.getLsbD (x - a) = true then Word.byte d (x - a) else m.read x := by
  unfold Memory.writeWord
  rw [Memory.read_write]
  simp only [Memory.merged_length]
  by_cases h : a ≤ x ∧ x < a + 4
  · rw [if_pos h]
    obtain ⟨i, hi⟩ : ∃ i, x = a + i := ⟨x - a, by omega⟩
    subst hi
    have h4 : i < 4 := by omega
    simp only [Memory.merged, Nat.add_sub_cancel_left, List.getD_eq_getElem?_getD,
      List.getElem?_map, List.getElem?_range h4, Option.map_some, Option.getD_some]
    by_cases hb : be.getLsbD i <;> simp [hb, h4]
  · rw [if_neg h, if_neg (fun hx => h ⟨hx.1, hx.2.1⟩)]

end Sys2Proof.Machine
end

