-- ==== Sys2Proof/Laws/Kept.lean ====
section
/-! SUPPORT. What the part's own steps keep: one lemma for each operation, that it changes no setting,
no clock and no hold of the arbiter, and that it leads from a sound state to a sound state. -/

-- One thread: the package as one text is checked under a memory limit, and each thread counts.
set_option Elab.async false

namespace Sys2Proof.Machine

/-- A step from s to t of the part's own: the settings, the clocks, the command queue and the
arbiter's hold are as before, and soundness is kept. -/
structure Kept (s t : State) : Prop where
  settings : t.settings = s.settings := by rfl
  time : t.time = s.time := by rfl
  pending : t.pending = s.pending := by rfl
  sequence : t.path.sequence = s.path.sequence := by rfl
  hold : t.path.hold = s.path.hold := by rfl
  sound : s.Sound → t.Sound

namespace Kept

variable {s t u : State}

theorem refl (s : State) : Kept s s := { sound := id }

theorem trans (h : Kept s t) (k : Kept t u) : Kept s u where
  settings := k.settings.trans h.settings
  time := k.time.trans h.time
  pending := k.pending.trans h.pending
  sequence := k.sequence.trans h.sequence
  hold := k.hold.trans h.hold
  sound := fun i => k.sound (h.sound i)

/-! ### Changes of one field -/

theorem memory (h : Kept s t) {m : Memory} (hm : t.memory.wf → m.wf) : Kept s { t with memory := m } :=
  h.trans { sound := fun i => { i with memory := hm i.memory } }

theorem charge (h : Kept s t) (x : ChargeUnit) : Kept s { t with charge := x } :=
  h.trans { sound := fun i => { i with } }

theorem free (h : Kept s t) (n : Nat) : Kept s { t with free := n } :=
  h.trans { sound := fun i => { i with } }

theorem arbiter (h : Kept s t) {x : Arbiter}
    (h1 : (x.held = t.arbiter.held ∧ x.hidden = t.arbiter.hidden) ∨ t.path.hold = true) :
    Kept s { t with arbiter := x } :=
  h.trans { sound := fun i => { i with
    held := fun e => by
      have := i.held e
      rcases h1 with h1 | h1
      · exact ⟨h1.1.trans this.1, h1.2.trans this.2⟩
      · exact absurd h1 (by simp_all) } }

theorem request (h : Kept s t) {x : RequestUnit} (h1 : x.post = t.request.post)
    (h2 : x.consume = t.request.consume) (h3 : x.startFault = t.request.startFault)
    (h4 : x.requestOverrun = t.request.requestOverrun)
    (h5 : x.interruptEnable = t.request.interruptEnable) : Kept s { t with request := x } :=
  h.trans { settings := by simp [State.settings, *], sound := fun i => { i with } }

theorem store (h : Kept s t) {x : StoreUnit} (h1 : x.leafBase = t.store.leafBase)
    (h2 : x.leafCount = t.store.leafCount) (h3 : x.receiveReserve = t.store.receiveReserve) :
    Kept s { t with store := x } :=
  h.trans { settings := by simp [State.settings, *],
            sound := fun i => { i with receiveReserve := by simpa [h3] using i.receiveReserve } }

theorem engine (h : Kept s t) {x : Engine}
    (h1 : ∀ i c, x.cp[i] = some c → t.compose i = some c ∨ c.queue.length ≤ 2)
    (h2 : ∀ i v, x.rv[i] = some v → t.view i = some v ∨ v.cache.length ≤ 4) :
    Kept s { t with engine := x } :=
  h.trans { sound := fun i => { i with
    composeQueues := fun j c e => (h1 j c e).elim (i.composeQueues j c) id
    caches := fun j v e => (h2 j v e).elim (i.caches j v) id } }

theorem engineSame (h : Kept s t) {x : Engine} (h1 : x.cp = t.engine.cp) (h2 : x.rv = t.engine.rv) :
    Kept s { t with engine := x } :=
  h.engine (fun i c e => .inl (by simpa [State.compose, h1] using e))
    (fun i v e => .inl (by simpa [State.view, h2] using e))

theorem scan (h : Kept s t) {x : ScanUnit} (h1 : t.scan.ring.length ≤ 16 → x.ring.length ≤ 16)
    (h2 : t.scan.feedSteps ≤ 400 → x.feedSteps ≤ 400) : Kept s { t with scan := x } :=
  h.trans { sound := fun i => { i with ring := h1 i.ring, feedSteps := h2 i.feedSteps } }

theorem dispatcher (h : Kept s t) {x : Dispatcher}
    (h1 : x.incomingReserve = t.dispatcher.incomingReserve) : Kept s { t with dispatcher := x } :=
  h.trans { settings := by simp [State.settings, *],
            sound := fun i => { i with incomingReserve := by simpa [h1] using i.incomingReserve } }

theorem print (h : Kept s t) {x : PrintUnit} (h1 : x.autoPrint = t.print.autoPrint) :
    Kept s { t with print := x } :=
  h.trans { settings := by simp [State.settings, *], sound := fun i => { i with } }

theorem lines (h : Kept s t) {x : Vector LineChannel 4}
    (h1 : ∀ l : LineNo, x[l].held = (t.line l).held)
    (h2 : ∀ l : LineNo, x[l].received.length ≤ (t.line l).received.length ∨ x[l].received.length ≤ 2) :
    Kept s { t with lines := x } :=
  h.trans
    { settings := by
        have : x.map (fun y => y.held) = t.lines.map (fun y => y.held) := by
          ext i hi
          simpa [State.line] using h1 ⟨i, hi⟩
        simp [State.settings, this]
      sound := fun i => { i with
        received := fun l => (h2 l).elim (fun e => le_trans e (i.received l)) id } }

theorem path (h : Kept s t) {x : PathUnit} (h1 : x.state = t.path.state) (h2 : x.size = t.path.size)
    (h3 : x.holdLimit = t.path.holdLimit) (h4 : x.queue = t.path.queue)
    (h5 : x.sequence = t.path.sequence) (h6 : x.hold = t.path.hold)
    (h8 : t.path.accessWaits = true → x.accessWaits = true)
    (h7 : (t.path.waiting.isSome = true → t.path.ending = none) →
      x.waiting.isSome = true → x.ending = none) : Kept s { t with path := x } :=
  h.trans { settings := by simp [State.settings, *], sequence := h5, hold := h6, sound := fun i =>
    { i with queue := by simpa [h4] using i.queue, holdLimit := by simpa [h3] using i.holdLimit,
             hold := fun e =>
               ⟨(i.hold (h6 ▸ e)).1.imp (fun k => h5.trans k) (fun k => by
                  simp only [PathUnit.firstClassWaits, h4, Bool.or_eq_true] at k ⊢
                  exact k.imp_right h8),
                h1 ▸ (i.hold (h6 ▸ e)).2⟩
             held := by simpa [h6] using i.held,
             waiting := h7 i.waiting } }

/-! ### Folds -/

theorem foldl {α : Type} {f : State → α → State} (h : Kept s t)
    (hf : ∀ u x, Kept s u → Kept s (f u x)) (xs : List α) : Kept s (xs.foldl f t) := by
  induction xs generalizing t with
  | nil => exact h
  | cons x xs ih => exact ih (hf t x h)

/-! ### The named operations -/

theorem poke (h : Kept s t) (off : Nat) (bs : List Byte) : Kept s (t.poke off bs) :=
  h.memory (fun m => Memory.wf_write m _ _)

theorem pokes (h : Kept s t) (ps : List (Nat × List Byte)) : Kept s (t.pokes ps) :=
  h.foldl (fun _ _ k => k.poke _ _) ps

theorem record (h : Kept s t) (r : Requester) (ps : List (Nat × List Byte)) : Kept s (t.record r ps) := by
  refine (h.pokes ps).arbiter ?_
  cases e : t.path.hold with
  | true => exact .inr (by simpa using e)
  | false => exact .inl (by simp [State.recordArbiter_free _ _ _ e, Arbiter.granted])

theorem pokesNow (h : Kept s t) (ps : List (Nat × List Byte)) : Kept s (t.pokesNow ps) := by
  refine (h.pokes ps).arbiter ?_
  cases e : t.path.hold with
  | true => exact .inr (by simpa using e)
  | false => exact .inl (by simp [State.shownArbiter_free _ _ e])

theorem configRecord (h : Kept s t) (r : Requester) (off v : Nat) : Kept s (t.configRecord r off v) :=
  h.record _ _

theorem holdTransfer (h : Kept s t) (x : HeldTransfer) (e : t.path.hold = true) :
    Kept s (t.holdTransfer x) := h.arbiter (.inr e)

theorem noticeLost (h : Kept s t) : Kept s (t.setFlag .noticeLost) := by
  unfold State.setFlag State.writeFlags
  split
  · exact h.holdTransfer _ ‹_›
  · exact (h.request (x := t.request.withFlag .noticeLost) rfl rfl rfl rfl rfl).configRecord _ _ _

theorem setLine (h : Kept s t) (l : LineNo) {x : LineChannel} (h1 : x.held = (t.line l).held)
    (h2 : x.received.length ≤ (t.line l).received.length ∨ x.received.length ≤ 2) :
    Kept s (t.setLine l x) :=
  h.lines
    (fun m => by
      have := t.line_setLine_eq l m x
      simp only [State.setLine, State.line] at this
      rw [this]; split <;> simp_all [State.line])
    (fun m => by
      have := t.line_setLine_eq l m x
      simp only [State.setLine, State.line] at this
      rw [this]; split
      · subst_vars; exact h2
      · exact .inl (le_refl _))

theorem setMeter (h : Kept s t) (l : LineNo) (m : Meter) : Kept s (t.setMeter l m) := h.charge _

theorem setDesk (h : Kept s t) (d : Nat) (x : DeskHeld) : Kept s (t.setDesk d x) := h.charge _

theorem setLn (h : Kept s t) (l : LineNo) (c : Option LineContext) : Kept s (t.setLn l c) :=
  h.engineSame rfl rfl

theorem setCp (h : Kept s t) (i : Fin 2) {c : Option ComposeContext}
    (hc : ∀ x, c = some x → t.compose i = some x ∨ x.queue.length ≤ 2 ∨
      ∃ y, t.compose i = some y ∧ x.queue.length ≤ y.queue.length) : Kept s (t.setCp i c) :=
  h.trans { sound := fun k => { k with
    composeQueues := fun j x e => by
      rw [State.compose_setCp_eq] at e
      split at e
      · subst_vars
        rcases hc x rfl with h | h | ⟨y, h, g⟩
        · exact k.composeQueues _ _ h
        · exact h
        · exact le_trans g (k.composeQueues _ _ h)
      · exact k.composeQueues _ _ e } }

theorem setRv (h : Kept s t) (i : Fin 2) {v : Option ViewContext}
    (hv : ∀ x, v = some x → x.cache.length ≤ 4 ∨
      ∃ y, t.view i = some y ∧ (y.cache.length ≤ 4 → x.cache.length ≤ 4)) : Kept s (t.setRv i v) :=
  h.trans { sound := fun k => { k with
    caches := fun j x e => by
      rw [State.view_setRv_eq] at e
      split at e
      · subst_vars
        rcases hv x rfl with h | ⟨y, h, g⟩
        · exact h
        · exact g (k.caches _ _ h)
      · exact k.caches _ _ e } }

theorem readRecord (h : Kept s t) (r : Requester) : Kept s (t.readRecord r) := h.record r []

/-- A waiting cycle that does not wait for its access is ended. -/
theorem endCycle (h : Kept s t) (d : Option Word) (hw : t.path.accessWaits = false) :
    Kept s (t.endCycle d) :=
  h.path rfl rfl rfl rfl rfl rfl (by simp [hw]) (by simp)

theorem endError (h : Kept s t) (c : Cycle) (e : BusError) (hw : t.path.accessWaits = false) :
    Kept s (t.endError c e) := by
  unfold State.endError
  dsimp only
  split
  · exact h.path rfl rfl rfl rfl rfl rfl (by simp [hw]) (by simp)
  · apply poke
    exact h.path rfl rfl rfl rfl rfl rfl (by simp [hw]) (by simp)

end Kept

end Sys2Proof.Machine
end

