-- ==== Sys2Proof/Laws/KeptOps.lean ====
section
/-! SUPPORT. What the operations of Machine/Ops.lean keep (Laws/Kept.lean). -/

-- One thread: the package as one text is checked under a memory limit, and each thread counts.
set_option Elab.async false

namespace Sys2Proof.Machine.Kept

variable {s t u : State}

theorem advanceProduce (h : Kept s t) : Kept s t.advanceProduce :=
  (h.request (x := { t.request with produce := t.request.produce + 1 }) rfl rfl rfl rfl rfl).configRecord
    _ _ _

theorem noticeEntry (h : Kept s t) (bytes : List Byte) : Kept s (t.noticeEntry bytes) := h.record _ _

theorem noticeRaised (h : Kept s t) : Kept s t.noticeRaised := h.free _

theorem writeNotice (h : Kept s t) (x : Notice) : Kept s (t.writeNotice x) :=
  ((h.noticeEntry _).noticeRaised).advanceProduce

theorem raise (h : Kept s t) (x : Notice) : Kept s (t.raise x) := by
  unfold State.raise
  repeat' first
    | with_reducible exact h
    | with_reducible apply writeNotice
    | with_reducible apply noticeLost
    | exact (h.noticeRaised).holdTransfer _ ‹_›
    | split

theorem answer (h : Kept s t) (kind : Nat) (r : Result) (v1 v2 : Option Nat) :
    Kept s (t.answer kind r v1 v2) := by
  unfold State.answer
  dsimp only
  with_reducible apply configRecord
  exact (h.raise _).request rfl rfl rfl rfl rfl

end Sys2Proof.Machine.Kept
end

