-- ==== Sys2Proof/Laws/KeptStore.lean ====
section
/-! SUPPORT. What the operations of Machine/Store.lean keep (Laws/Kept.lean). -/

-- One thread: the package as one text is checked under a memory limit, and each thread counts.
set_option Elab.async false

namespace Sys2Proof.Machine.Kept

variable {s t u : State}

theorem pageRecord (h : Kept s t) (p : Nat) (pieces : List (Nat × List Byte)) : Kept s (t.pageRecord p pieces) := by
  unfold State.pageRecord
  repeat' first
    | with_reducible exact h
    | with_reducible apply record

theorem setReferences (h : Kept s t) (p n : Nat) (flags : Byte) : Kept s (t.setReferences p n flags) := by
  unfold State.setReferences
  dsimp only
  repeat' first
    | with_reducible exact h
    | with_reducible exact id
    | with_reducible rfl
    | with_reducible assumption
    | with_reducible apply pageRecord
    | with_reducible apply store

theorem setDepth (h : Kept s t) (d : Nat) : Kept s (t.setDepth d) := by
  unfold State.setDepth
  repeat' first
    | with_reducible exact h
    | with_reducible exact id
    | with_reducible rfl
    | with_reducible assumption
    | with_reducible apply configRecord
    | with_reducible apply store

theorem pushLeaf (h : Kept s t) (leaf : Nat) : Kept s (t.pushLeaf leaf) := by
  unfold State.pushLeaf
  repeat' first
    | with_reducible exact h
    | with_reducible apply record
    | with_reducible apply setDepth

theorem storeAvailable (h : Kept s t) : Kept s (t.storeAvailable) := by
  unfold State.storeAvailable
  repeat' first
    | with_reducible exact h
    | with_reducible exact id
    | with_reducible rfl
    | with_reducible assumption
    | split
    | with_reducible apply scan

theorem checkLow (h : Kept s t) : Kept s (t.checkLow) := by
  unfold State.checkLow
  dsimp only
  repeat' first
    | with_reducible exact h
    | with_reducible exact id
    | with_reducible rfl
    | with_reducible assumption
    | with_reducible apply raise
    | with_reducible apply storeAvailable
    | split
    | with_reducible apply store

theorem createPage (h : Kept s t) {o : Origin} {r : Resolution} {tag : Tag} {p : Nat}
    (e : t.createPage o r tag = some (u, p)) : Kept s u := by
  unfold State.createPage at e
  split at e
  · split at e
    · cases e
    · cases e
      with_reducible apply pageRecord
      exact h.store rfl rfl rfl
  · cases e

theorem allocate (h : Kept s t) {p : Nat} (e : t.allocate p = some u) : Kept s u := by
  unfold State.allocate at e
  split at e
  · cases e
    with_reducible apply checkLow
    exact (h.setDepth _).pokesNow _
  · cases e

theorem writeStreamBit (h : Kept s t) (chain : List Nat) (k : Nat) (bit : Bool) :
    Kept s (t.writeStreamBit chain k bit) := by
  unfold State.writeStreamBit
  split
  · exact h
  · exact h.memory (fun m => Memory.wf_writeBit m _ _ _)

theorem writeStream (h : Kept s t) (chain : List Nat) (k : Nat) (bits : List Bool) :
    Kept s (t.writeStream chain k bits) := by
  induction bits generalizing t k with
  | nil => exact h
  | cons b bs ih => exact ih (h.writeStreamBit _ _ _) _

theorem makeRoom (h : Kept s t) {p n : Nat} (e : t.makeRoom p n = some u) : Kept s u := by
  unfold State.makeRoom at e
  split at e
  · cases e; exact h
  · exact h.allocate e

theorem commit (h : Kept s t) {p : Nat} {bits : List Bool} {extra : List (Nat × List Byte)}
    (e : t.commit p bits extra = .made u) : Kept s u := by
  unfold State.commit at e
  split at e
  · cases e
  · split at e
    · cases e
    · split at e
      · cases e
      · cases e
        exact ((h.makeRoom ‹_›).writeStream _ _ _).pokesNow _

theorem forgetAwaited_keeps (x : LineChannel) (p : Nat) :
    (x.forgetAwaited p).held = x.held ∧ (x.forgetAwaited p).received = x.received := by
  unfold LineChannel.forgetAwaited
  split
  · split
    · split <;> exact ⟨rfl, rfl⟩
    · exact ⟨rfl, rfl⟩
  · exact ⟨rfl, rfl⟩

theorem tellAwaited (h : Kept s t) (p : Nat) : Kept s (t.tellAwaited p) := by
  refine h.lines (fun l => ?_) (fun l => .inl ?_) <;>
    simp [State.line, forgetAwaited_keeps]

theorem waitingView_isSome {t : State} {i : Fin 2} {v : ViewContext}
    (e : t.waitingView = some (i, v)) : t.view i = some v := by
  unfold State.waitingView at e
  split at e
  · obtain ⟨j, -, hj⟩ := List.exists_of_findSome?_eq_some e
    split at hj
    · split at hj
      · cases hj; simpa [State.view] using ‹_›
      · cases hj
    · cases hj
  · cases e

theorem setRvOf (h : Kept s t) {i : Fin 2} {v w : ViewContext} (e : t.view i = some v)
    (hc : v.cache.length ≤ 4 → w.cache.length ≤ 4) : Kept s (t.setRv i (some w)) :=
  h.setRv i (fun _ hx => .inr ⟨v, e, Option.some.inj hx ▸ hc⟩)

theorem setRvNone (h : Kept s t) (i : Fin 2) : Kept s (t.setRv i none) :=
  h.setRv i (fun _ hx => by cases hx)

/-- A read that waits on a view waits for no access. -/
theorem waitingView_access {i : Fin 2} {v : ViewContext} (e : t.waitingView = some (i, v)) :
    t.path.accessWaits = false := by
  unfold State.waitingView at e
  unfold PathUnit.accessWaits
  split at e
  · simp_all
  · cases e

theorem tellDropped (h : Kept s t) (p : Nat) : Kept s (t.tellDropped p) := by
  unfold State.tellDropped
  split
  · rename_i i v e
    split
    · refine (h.setRvOf (waitingView_isSome e) ?_).endCycle _ (waitingView_access (t := t) e)
      exact id
    · exact h
  · exact h

theorem tellSealed (h : Kept s t) (p : Nat) : Kept s (t.tellSealed p) := by
  unfold State.tellSealed
  split
  · rename_i i v e
    split
    · split
      · refine (h.setRvOf (waitingView_isSome e) ?_).endCycle _ (waitingView_access (t := t) e)
        exact id
      · exact h
    · exact h
  · exact h

theorem freePage (h : Kept s t) (p : Nat) : Kept s (t.freePage p) := by
  unfold State.freePage
  have k := h.foldl (f := State.pushLeaf) (fun _ _ k => k.pushLeaf _) (t.chainOf p)
  with_reducible apply checkLow
  with_reducible apply tellAwaited
  with_reducible apply pageRecord
  exact k.store rfl rfl rfl

theorem freeIfDone (h : Kept s t) (p : Nat) : Kept s (t.freeIfDone p) := by
  unfold State.freeIfDone
  repeat' first
    | with_reducible exact h
    | with_reducible apply freePage
    | split

theorem sealPage (h : Kept s t) (p : Nat) (flags : Byte) : Kept s (t.sealPage p flags) := by
  unfold State.sealPage
  dsimp only
  repeat' first
    | with_reducible exact h
    | with_reducible apply pageRecord
    | with_reducible apply raise
    | with_reducible apply tellSealed
    | with_reducible apply freeIfDone
    | split

theorem dropPage (h : Kept s t) (p : Nat) (code : Nat) : Kept s (t.dropPage p code) := by
  unfold State.dropPage
  dsimp only
  repeat' first
    | with_reducible exact h
    | with_reducible exact id
    | with_reducible rfl
    | with_reducible assumption
    | with_reducible apply pageRecord
    | with_reducible apply raise
    | with_reducible apply tellAwaited
    | with_reducible apply tellDropped
    | with_reducible apply freeIfDone
    | split
    | with_reducible apply store

theorem takeReference (h : Kept s t) {p : Nat} {states : List PageState} {limit : Nat}
    (e : t.takeReference p states limit = some u) : Kept s u := by
  unfold State.takeReference at e
  split at e
  · cases e; exact h.setReferences _ _ _
  · cases e

theorem dropReference (h : Kept s t) (p : Nat) : Kept s (t.dropReference p) := by
  unfold State.dropReference
  repeat' first
    | with_reducible exact h
    | with_reducible apply setReferences
    | with_reducible apply freeIfDone

theorem dropOwner (h : Kept s t) (p : Nat) : Kept s (t.dropOwner p) := by
  unfold State.dropOwner
  repeat' first
    | with_reducible exact h
    | with_reducible apply setReferences
    | with_reducible apply freeIfDone

end Sys2Proof.Machine.Kept
end

