-- ==== Sys2Proof/Laws/KeptPrint.lean ====
section
/-! SUPPORT. What the operations of Machine/Print.lean keep (Laws/Kept.lean). -/

-- One thread: the package as one text is checked under a memory limit, and each thread counts.
set_option Elab.async false

namespace Sys2Proof.Machine.Kept

variable {s t u : State}

theorem setSlot (h : Kept s t) (n : Nat) (x : Slot) : Kept s (t.setSlot n x) := by
  unfold State.setSlot
  repeat' first
    | with_reducible exact h
    | with_reducible apply record

theorem enterQueue (h : Kept s t) (n p copies : Nat) (urgent auto : Bool) : Kept s (t.enterQueue n p copies urgent auto) := by
  unfold State.enterQueue
  dsimp only
  repeat' first
    | with_reducible exact h
    | with_reducible exact id
    | with_reducible rfl
    | with_reducible assumption
    | with_reducible apply setSlot
    | with_reducible apply print

theorem leaveQueue (h : Kept s t) (n : Nat) : Kept s (t.leaveQueue n) := by
  unfold State.leaveQueue
  repeat' first
    | with_reducible exact h
    | with_reducible apply setSlot
    | with_reducible apply dropReference

theorem raisePrintDone (h : Kept s t) (p n done code : Nat) : Kept s (t.raisePrintDone p n done code) := by
  unfold State.raisePrintDone
  repeat' first
    | with_reducible exact h
    | with_reducible apply raise

theorem raisePaperOut (h : Kept s t) (v : Nat) : Kept s (t.raisePaperOut v) := by
  unfold State.raisePaperOut
  repeat' first
    | with_reducible exact h
    | with_reducible apply raise

theorem releasePr (h : Kept s t) : Kept s (t.releasePr) := by
  unfold State.releasePr
  repeat' first
    | with_reducible exact h
    | with_reducible exact id
    | with_reducible rfl
    | with_reducible assumption
    | with_reducible apply engineSame

theorem startCut (h : Kept s t) : Kept s (t.startCut) := by
  unfold State.startCut
  repeat' first
    | with_reducible exact h
    | with_reducible exact id
    | with_reducible rfl
    | with_reducible assumption
    | with_reducible apply print

theorem enginePrint (h : Kept s t) {x : Engine} {y : PrintUnit} (h1 : x.cp = t.engine.cp)
    (h2 : x.rv = t.engine.rv) (h3 : y.autoPrint = t.print.autoPrint) :
    Kept s { t with engine := x, print := y } :=
  (h.engineSame (x := x) h1 h2).print h3

theorem beginCopy (h : Kept s t) (n : Nat) : Kept s (t.beginCopy n) := by
  have k : Kept s (t.setSlot n { t.slot n with state := some .printing }) := h.setSlot n _
  unfold State.beginCopy
  dsimp only
  split
  · with_reducible apply startCut
    exact k.enginePrint rfl rfl rfl
  · exact k.enginePrint rfl rfl rfl

theorem takeHeadN (h : Kept s t) (n : Nat) : Kept s (State.takeHeadN n t) := by
  induction n generalizing t with
  | zero => exact h
  | succ n ih =>
    unfold State.takeHeadN
    split
    · split
      · exact h
      · dsimp only
        split
        · exact ih ((((h.setSlot _ _).releasePr).leaveQueue _).raisePrintDone _ _ _ _)
        · exact h.beginCopy _
    · exact h

theorem takeHead (h : Kept s t) : Kept s t.takeHead := h.takeHeadN 32

theorem afterCut (h : Kept s t) : Kept s (t.afterCut) := by
  unfold State.afterCut
  dsimp only
  repeat' first
    | with_reducible exact h
    | with_reducible exact id
    | with_reducible rfl
    | with_reducible assumption
    | with_reducible apply takeHead
    | with_reducible apply raisePaperOut
    | split
    | with_reducible apply print

theorem cutComplete (h : Kept s t) : Kept s (t.cutComplete) := by
  unfold State.cutComplete
  dsimp only
  repeat' first
    | with_reducible exact h
    | with_reducible apply afterCut
    | with_reducible apply releasePr
    | with_reducible apply leaveQueue
    | with_reducible apply raisePrintDone
    | with_reducible apply setSlot
    | split

theorem burn (h : Kept s t) (x : Raster) (r : Resolution) : Kept s (t.burn x r) := by
  unfold State.burn
  repeat' first
    | with_reducible exact h
    | with_reducible exact id
    | with_reducible rfl
    | with_reducible assumption
    | split
    | with_reducible apply print

theorem throughCut (h : Kept s t) : Kept s (t.throughCut) := by
  unfold State.throughCut
  repeat' first
    | with_reducible exact h
    | with_reducible exact id
    | with_reducible rfl
    | with_reducible assumption
    | with_reducible apply startCut
    | split
    | with_reducible apply print

theorem lineDone (h : Kept s t) : Kept s (t.lineDone) := by
  unfold State.lineDone
  dsimp only
  repeat' first
    | with_reducible exact h
    | with_reducible apply burn
    | with_reducible apply releasePr
    | with_reducible apply startCut
    | with_reducible apply throughCut
    | split

theorem prGrant (h : Kept s t) : Kept s t.prGrant := by
  unfold State.prGrant
  split
  · exact h
  · exact h.enginePrint rfl rfl rfl

theorem cancelItem (h : Kept s t) (n : Nat) : Kept s (t.cancelItem n) := by
  unfold State.cancelItem
  dsimp only
  repeat' first
    | with_reducible exact h
    | with_reducible apply leaveQueue
    | with_reducible apply raisePrintDone
    | with_reducible apply setSlot
    | with_reducible apply releasePr
    | with_reducible apply startCut
    | split

theorem abandonCopy (h : Kept s t) : Kept s (t.abandonCopy) := by
  unfold State.abandonCopy
  dsimp only
  repeat' first
    | with_reducible exact h
    | with_reducible exact id
    | with_reducible rfl
    | with_reducible assumption
    | with_reducible apply releasePr
    | with_reducible apply leaveQueue
    | with_reducible apply raisePrintDone
    | with_reducible apply setSlot
    | split
    | with_reducible apply print

theorem losePaper (h : Kept s t) : Kept s (t.losePaper) := by
  unfold State.losePaper
  dsimp only
  repeat' first
    | with_reducible exact h
    | with_reducible exact id
    | with_reducible rfl
    | with_reducible assumption
    | with_reducible apply raisePaperOut
    | with_reducible apply abandonCopy
    | with_reducible apply throughCut
    | split
    | with_reducible apply print

theorem returnPaper (h : Kept s t) : Kept s (t.returnPaper) := by
  unfold State.returnPaper
  dsimp only
  repeat' first
    | with_reducible exact h
    | with_reducible exact id
    | with_reducible rfl
    | with_reducible assumption
    | with_reducible apply takeHead
    | split
    | with_reducible apply print

theorem readPaper (h : Kept s t) : Kept s (t.readPaper) := by
  unfold State.readPaper
  repeat' first
    | with_reducible exact h
    | with_reducible exact id
    | with_reducible rfl
    | with_reducible assumption
    | with_reducible apply takeHead
    | with_reducible apply raisePaperOut
    | split
    | with_reducible apply print

theorem grantThrough (h : Kept s t) {l : LineNo} {r : Resolution} (e : t.grantThrough l r = some u) :
    Kept s u := by
  unfold State.grantThrough at e
  split at e
  · cases e; exact h.print rfl
  · cases e

theorem handThrough (h : Kept s t) (x : Raster) : Kept s (t.handThrough x) := by
  unfold State.handThrough
  repeat' first
    | with_reducible exact h
    | with_reducible exact id
    | with_reducible rfl
    | with_reducible assumption
    | split
    | with_reducible apply print

theorem endThrough (h : Kept s t) (l : LineNo) : Kept s (t.endThrough l) := by
  unfold State.endThrough
  repeat' first
    | with_reducible exact h
    | with_reducible exact id
    | with_reducible rfl
    | with_reducible assumption
    | with_reducible apply throughCut
    | split
    | with_reducible apply print

theorem autoPrint (h : Kept s t) (p : Nat) : Kept s (t.autoPrint p) := by
  unfold State.autoPrint
  repeat' first
    | with_reducible exact h
    | with_reducible refine takeReference ?_ (by assumption)
    | with_reducible apply enterQueue
    | with_reducible apply takeHead
    | split

end Sys2Proof.Machine.Kept
end

