-- ==== Sys2Proof/Laws/KeptCharge.lean ====
section
/-! SUPPORT. What the operations of Machine/Charge.lean keep (Laws/Kept.lean). -/

-- One thread: the package as one text is checked under a memory limit, and each thread counts.
set_option Elab.async false

namespace Sys2Proof.Machine.Kept

variable {s t u : State}

theorem writeDesk (h : Kept s t) (d total cap calls pages : Nat) : Kept s (t.writeDesk d total cap calls pages) := by
  unfold State.writeDesk
  repeat' first
    | with_reducible exact h
    | with_reducible apply record

theorem capLine (h : Kept s t) (d : Nat) (l : LineNo) : Kept s (t.capLine d l) := by
  unfold State.capLine
  dsimp only
  repeat' first
    | with_reducible exact h
    | with_reducible exact id
    | with_reducible rfl
    | with_reducible assumption
    | with_reducible apply setMeter
    | split
    | with_reducible apply charge

theorem enterCapped (h : Kept s t) (d : Nat) : Kept s (t.enterCapped d) := by
  unfold State.enterCapped
  dsimp only
  repeat' first
    | with_reducible exact h
    | with_reducible apply setDesk
    | with_reducible apply writeDesk
    | with_reducible apply raise
    | with_reducible apply capLine
    | with_reducible assumption
    | with_reducible refine foldl ?_ (fun _ _ k => ?_) _

theorem checkCap (h : Kept s t) (d : Nat) : Kept s (t.checkCap d) := by
  unfold State.checkCap
  repeat' first
    | with_reducible exact h
    | with_reducible apply enterCapped
    | with_reducible apply readRecord
    | split

theorem startMeter (h : Kept s t) (l : LineNo) (job destination desk : Nat) (c : LineConfig) : Kept s (t.startMeter l job destination desk c) := by
  unfold State.startMeter
  dsimp only
  repeat' first
    | with_reducible exact h
    | with_reducible exact id
    | with_reducible rfl
    | with_reducible assumption
    | with_reducible apply setMeter
    | split
    | with_reducible apply charge

theorem startUnit (h : Kept s t) (l : LineNo) (from_ : BitVec 32) : Kept s (t.startUnit l from_) := by
  unfold State.startUnit
  dsimp only
  repeat' first
    | with_reducible exact h
    | with_reducible apply readRecord
    | with_reducible apply setMeter
    | with_reducible apply checkCap

theorem connectMeter (h : Kept s t) (l : LineNo) : Kept s (t.connectMeter l) := by
  unfold State.connectMeter
  dsimp only
  repeat' first
    | with_reducible exact h
    | with_reducible apply setMeter
    | with_reducible apply startUnit
    | split

theorem expireUnit (h : Kept s t) (l : LineNo) : Kept s (t.expireUnit l) := by
  unfold State.expireUnit
  repeat' first
    | with_reducible exact h
    | with_reducible apply startUnit
    | split

theorem countPulse (h : Kept s t) (l : LineNo) : Kept s (t.countPulse l) := by
  unfold State.countPulse
  dsimp only
  repeat' first
    | with_reducible exact h
    | with_reducible apply setMeter
    | with_reducible apply checkCap
    | split

theorem meterPageBegun (h : Kept s t) (l : LineNo) : Kept s (t.meterPageBegun l) := by
  unfold State.meterPageBegun
  repeat' first
    | with_reducible exact h
    | with_reducible apply setMeter

theorem meterVerdict (h : Kept s t) (l : LineNo) : Kept s (t.meterVerdict l).1 := h.setMeter _ _

theorem writeLog (h : Kept s t) (bytes : List Byte) : Kept s (t.writeLog bytes) := by
  unfold State.writeLog
  dsimp only
  repeat' first
    | with_reducible exact h
    | with_reducible exact id
    | with_reducible rfl
    | with_reducible assumption
    | with_reducible apply record
    | with_reducible apply charge

theorem releaseOutgoing (h : Kept s t) (x : ReleaseFacts) (number : List Nibble) : Kept s (t.releaseOutgoing x number) := by
  unfold State.releaseOutgoing
  dsimp only
  repeat' first
    | with_reducible exact h
    | with_reducible apply writeLog
    | with_reducible apply writeDesk
    | with_reducible apply setMeter
    | with_reducible apply checkCap

theorem releaseIncoming (h : Kept s t) (x : ReleaseFacts) (seizure : Stamp) (connect : Option Stamp) : Kept s (t.releaseIncoming x seizure connect) := by
  unfold State.releaseIncoming
  repeat' first
    | with_reducible exact h
    | with_reducible apply writeLog

theorem discardMeter (h : Kept s t) (l : LineNo) : Kept s (t.discardMeter l) := by
  unfold State.discardMeter
  repeat' first
    | with_reducible exact h
    | with_reducible apply setMeter

theorem clearCapPending (h : Kept s t) (d : Nat) : Kept s (t.clearCapPending d) := by
  unfold State.clearCapPending
  dsimp only
  repeat' first
    | with_reducible exact h
    | with_reducible apply setMeter
    | with_reducible assumption
    | with_reducible refine foldl ?_ (fun _ _ k => ?_) _
    | split

theorem settleDesk (h : Kept s t) (d cap markup : Nat) (clear : Bool) : Kept s (t.settleDesk d cap markup clear) := by
  unfold State.settleDesk
  dsimp only
  repeat' first
    | with_reducible exact h
    | with_reducible apply setDesk
    | with_reducible apply writeDesk
    | with_reducible apply enterCapped
    | with_reducible apply clearCapPending
    | split

end Sys2Proof.Machine.Kept
end

