-- ==== Sys2Proof/Laws/KeptDispatcher.lean ====
section
/-! SUPPORT. What the operations of Machine/Dispatcher.lean keep (Laws/Kept.lean). -/

-- One thread: the package as one text is checked under a memory limit, and each thread counts.
set_option Elab.async false

namespace Sys2Proof.Machine.Kept

variable {s t u : State}

theorem setJob (h : Kept s t) (j : Nat) (x : JobStatus) : Kept s (t.setJob j x) := by
  unfold State.setJob
  repeat' first
    | with_reducible exact h
    | with_reducible apply record

theorem setDestination (h : Kept s t) (j d : Nat) (x : Destination) : Kept s (t.setDestination j d x) := by
  unfold State.setDestination
  repeat' first
    | with_reducible exact h
    | with_reducible apply record

theorem raiseJobDone (h : Kept s t) (j : Nat) : Kept s (t.raiseJobDone j) := by
  unfold State.raiseJobDone
  dsimp only
  repeat' first
    | with_reducible exact h
    | with_reducible apply raise

theorem finishJob (h : Kept s t) (j : Nat) : Kept s (t.finishJob j) := by
  unfold State.finishJob
  dsimp only
  repeat' first
    | with_reducible exact h
    | with_reducible exact id
    | with_reducible rfl
    | with_reducible assumption
    | with_reducible apply dropReference
    | with_reducible apply setJob
    | with_reducible apply raiseJobDone
    | with_reducible assumption
    | with_reducible refine foldl ?_ (fun _ _ k => ?_) _
    | with_reducible apply dispatcher

theorem checkComplete (h : Kept s t) (j : Nat) : Kept s (t.checkComplete j) := by
  unfold State.checkComplete
  repeat' first
    | with_reducible exact h
    | with_reducible apply finishJob
    | split

theorem applyOutcome (h : Kept s t) (j d : Nat) (e : AttemptEnd) : Kept s (t.applyOutcome j d e) := by
  unfold State.applyOutcome
  dsimp only
  repeat' first
    | with_reducible exact h
    | with_reducible apply setDestination
    | with_reducible apply setJob
    | with_reducible apply raise
    | with_reducible apply checkComplete
    | split

theorem takeReferenceOr (h : Kept s t) (p : Nat) (states : List PageState) (limit : Nat) :
    Kept s ((t.takeReference p states limit).getD t) := by
  cases e : t.takeReference p states limit with
  | none => exact h
  | some u => exact h.takeReference e

theorem listReference (h : Kept s t) (p : Nat) : Kept s (t.listReference p) :=
  h.takeReferenceOr _ _ _

theorem submit (h : Kept s t) (j : Nat) : Kept s (t.submit j) := by
  unfold State.submit
  dsimp only
  repeat' first
    | with_reducible exact h
    | with_reducible exact id
    | with_reducible rfl
    | with_reducible assumption
    | with_reducible apply setDestination
    | with_reducible apply listReference
    | with_reducible apply setJob
    | with_reducible apply raiseJobDone
    | with_reducible assumption
    | with_reducible refine foldl ?_ (fun _ _ k => ?_) _
    | split
    | with_reducible apply dispatcher

theorem cancelPending (h : Kept s t) (j : Nat) : Kept s (t.cancelPending j) := by
  unfold State.cancelPending
  repeat' first
    | with_reducible exact h
    | with_reducible apply setDestination
    | with_reducible assumption
    | with_reducible refine foldl ?_ (fun _ _ k => ?_) _
    | split

theorem cancelJob (h : Kept s t) (j : Nat) : Kept s (t.cancelJob j) := by
  unfold State.cancelJob
  dsimp only
  repeat' first
    | with_reducible exact h
    | with_reducible apply cancelPending
    | with_reducible apply setJob
    | with_reducible apply checkComplete

end Sys2Proof.Machine.Kept
end

