-- ==== Sys2Proof/Laws/KeptLines.lean ====
section
/-! SUPPORT. What the operations of Machine/Lines.lean keep (Laws/Kept.lean). -/

-- One thread: the package as one text is checked under a memory limit, and each thread counts.
set_option Elab.async false

namespace Sys2Proof.Machine.Kept

variable {s t u : State}

theorem syncLine (h : Kept s t) (l : LineNo) : Kept s (t.syncLine l) := by
  unfold State.syncLine
  repeat' first
    | with_reducible exact h
    | with_reducible apply record
    | split

theorem syncLines (h : Kept s t) : Kept s (t.syncLines) := by
  unfold State.syncLines
  repeat' first
    | with_reducible exact h
    | with_reducible apply syncLine
    | with_reducible assumption
    | with_reducible refine foldl ?_ (fun _ _ k => ?_) _

theorem setTimer (h : Kept s t) (l : LineNo) (kind : TimerKind) (ms : Nat) : Kept s (t.setTimer l kind ms) := by
  unfold State.setTimer
  repeat' first
    | with_reducible exact h
    | with_reducible exact id
    | with_reducible rfl
    | with_reducible assumption
    | with_reducible apply setLine
  all_goals simp

theorem stopTimer (h : Kept s t) (l : LineNo) : Kept s (t.stopTimer l) := by
  unfold State.stopTimer
  repeat' first
    | with_reducible exact h
    | with_reducible exact id
    | with_reducible rfl
    | with_reducible assumption
    | with_reducible apply setLine
  all_goals simp

theorem hookOff (h : Kept s t) (l : LineNo) : Kept s (t.hookOff l) := by
  unfold State.hookOff
  repeat' first
    | with_reducible exact h
    | with_reducible exact id
    | with_reducible rfl
    | with_reducible assumption
    | with_reducible apply setLine
  all_goals simp

theorem setLineState (h : Kept s t) (l : LineNo) (x : LineState) : Kept s (t.setLineState l x) := by
  unfold State.setLineState
  repeat' first
    | with_reducible exact h
    | with_reducible exact id
    | with_reducible rfl
    | with_reducible assumption
    | with_reducible apply setLine
  all_goals simp

theorem setCall (h : Kept s t) (l : LineNo) (c : Option Call) : Kept s (t.setCall l c) := by
  unfold State.setCall
  repeat' first
    | with_reducible exact h
    | with_reducible exact id
    | with_reducible rfl
    | with_reducible assumption
    | with_reducible apply setLine
  all_goals simp

theorem setLink (h : Kept s t) (l : LineNo) (k : Option Link) : Kept s (t.setLink l k) := by
  unfold State.setLink
  repeat' first
    | with_reducible exact h
    | with_reducible exact id
    | with_reducible rfl
    | with_reducible assumption
    | with_reducible apply setLine
  all_goals simp

theorem onLink (h : Kept s t) (l : LineNo) (f : Link → Link) : Kept s (t.onLink l f) := by
  unfold State.onLink
  repeat' first
    | with_reducible exact h
    | with_reducible apply setLink

theorem command (h : Kept s t) (l : LineNo) (c : PumpCommand) : Kept s (t.command l c) := by
  unfold State.command
  repeat' first
    | with_reducible exact h
    | with_reducible exact id
    | with_reducible rfl
    | with_reducible assumption
    | with_reducible apply setLine
  all_goals simp

theorem send (h : Kept s t) (l : LineNo) (c : PumpCommand) : Kept s (t.send l c) := by
  unfold State.send
  repeat' first
    | with_reducible exact h
    | with_reducible exact id
    | with_reducible rfl
    | with_reducible assumption
    | with_reducible apply setLine
    | with_reducible apply command
  all_goals simp

theorem listen (h : Kept s t) (l : LineNo) (c : PumpCommand) : Kept s (t.listen l c) := by
  unfold State.listen
  repeat' first
    | with_reducible exact h
    | with_reducible exact id
    | with_reducible rfl
    | with_reducible assumption
    | with_reducible apply setLine
    | with_reducible apply command
  all_goals simp

theorem sendEnded (h : Kept s t) (l : LineNo) : Kept s (t.sendEnded l) := by
  unfold State.sendEnded
  repeat' first
    | with_reducible exact h
    | with_reducible exact id
    | with_reducible rfl
    | with_reducible assumption
    | with_reducible apply setLine
  all_goals simp

theorem startBreak (h : Kept s t) (l : LineNo) : Kept s (t.startBreak l) := by
  unfold State.startBreak
  repeat' first
    | with_reducible exact h
    | with_reducible exact id
    | with_reducible rfl
    | with_reducible assumption
    | with_reducible apply setLine
    | with_reducible apply setTimer
  all_goals simp

theorem startNibble (h : Kept s t) (l : LineNo) (c : Call) (x : Nibble) : Kept s (t.startNibble l c x) := by
  unfold State.startNibble
  repeat' first
    | with_reducible exact h
    | with_reducible apply setTimer
    | with_reducible apply setCall
    | with_reducible apply startBreak
    | with_reducible apply command
    | split

theorem dialOn (h : Kept s t) (l : LineNo) (c : Call) : Kept s (t.dialOn l c) := by
  unfold State.dialOn
  dsimp only
  repeat' first
    | with_reducible exact h
    | with_reducible apply setCall
    | with_reducible apply setLineState
    | with_reducible apply startNibble
    | with_reducible apply setTimer
    | with_reducible apply answer
    | split

theorem beginDialling (h : Kept s t) (l : LineNo) : Kept s (t.beginDialling l) := by
  unfold State.beginDialling
  repeat' first
    | with_reducible exact h
    | with_reducible apply stopTimer
    | with_reducible apply dialOn
    | split

theorem nibbleDone (h : Kept s t) (l : LineNo) : Kept s (t.nibbleDone l) := by
  unfold State.nibbleDone
  repeat' first
    | with_reducible exact h
    | with_reducible apply stopTimer
    | with_reducible apply dialOn
    | split

theorem resolveAwaited (h : Kept s t) (l : LineNo) : Kept s (t.resolveAwaited l) := by
  unfold State.resolveAwaited
  repeat' first
    | with_reducible exact h
    | with_reducible apply onLink
    | with_reducible apply autoPrint
    | split

theorem endReceivedPage (h : Kept s t) (l : LineNo) (o : CallOutcome) (restart : Bool) : Kept s (t.endReceivedPage l o restart) := by
  unfold State.endReceivedPage
  dsimp only
  repeat' first
    | with_reducible exact h
    | with_reducible apply onLink
    | with_reducible apply dropPage
    | with_reducible apply endThrough
    | with_reducible apply resolveAwaited
    | split

theorem endSentPage (h : Kept s t) (l : LineNo) : Kept s (t.endSentPage l) := by
  unfold State.endSentPage
  dsimp only
  repeat' first
    | with_reducible exact h
    | with_reducible apply onLink
    | with_reducible apply dropReference
    | split

theorem release (h : Kept s t) (l : LineNo) (c : Call) (o : CallOutcome) : Kept s (t.release l c o) := by
  unfold State.release
  dsimp only
  repeat' first
    | with_reducible exact h
    | with_reducible apply releaseOutgoing
    | with_reducible apply applyOutcome
    | with_reducible apply raise
    | with_reducible apply releaseIncoming
    | split

theorem hookOn (h : Kept s t) (l : LineNo) : Kept s (t.hookOn l) := by
  unfold State.hookOn
  dsimp only
  repeat' first
    | with_reducible exact h
    | with_reducible exact id
    | with_reducible rfl
    | with_reducible assumption
    | with_reducible apply setLine
    | with_reducible apply release
    | split
  all_goals simp [LineChannel.emptied]

theorem enterClearing (h : Kept s t) (l : LineNo) (o : CallOutcome) (restart : Bool) : Kept s (t.enterClearing l o restart) := by
  unfold State.enterClearing
  dsimp only
  repeat' first
    | with_reducible exact h
    | with_reducible exact id
    | with_reducible rfl
    | with_reducible assumption
    | with_reducible apply setLine
    | with_reducible apply endSentPage
    | with_reducible apply endReceivedPage
    | with_reducible apply setLn
    | split
  all_goals simp

theorem sendFarewell (h : Kept s t) (l : LineNo) : Kept s (t.sendFarewell l) := by
  unfold State.sendFarewell
  dsimp only
  repeat' first
    | with_reducible exact h
    | with_reducible exact id
    | with_reducible rfl
    | with_reducible assumption
    | with_reducible apply setTimer
    | with_reducible apply setLine
    | with_reducible apply send
    | split
  all_goals simp

theorem endCall (h : Kept s t) (l : LineNo) (o : CallOutcome) : Kept s (t.endCall l o) := by
  unfold State.endCall
  dsimp only
  repeat' first
    | with_reducible exact h
    | with_reducible apply enterClearing
    | with_reducible apply sendFarewell
    | with_reducible apply hookOn
    | split

theorem abort (h : Kept s t) (l : LineNo) (restart : Bool) : Kept s (t.abort l restart) := by
  unfold State.abort
  repeat' first
    | with_reducible exact h
    | with_reducible apply enterClearing
    | with_reducible apply hookOn
    | split

theorem clearOrder (h : Kept s t) (l : LineNo) (o : CallOutcome) : Kept s (t.clearOrder l o) := by
  unfold State.clearOrder
  repeat' first
    | with_reducible exact h
    | with_reducible apply endCall
    | split

theorem takeOrders (h : Kept s t) (n : Nat) : Kept s (t.takeOrders n) := by
  induction n generalizing t with
  | zero => exact h
  | succ n ih =>
    unfold State.takeOrders
    split
    · exact h
    · exact ih ((h.charge _).clearOrder _ _)

theorem finishLines (h : Kept s t) : Kept s t.finishLines := (h.takeOrders maxOrders).syncLines

theorem seize (h : Kept s t) (l : LineNo) (j d : Nat) : Kept s (t.seize l j d) := by
  unfold State.seize
  dsimp only
  repeat' first
    | with_reducible exact h
    | with_reducible apply setCall
    | with_reducible apply hookOff
    | with_reducible apply startMeter
    | with_reducible apply setLineState
    | with_reducible apply setTimer
    | split

theorem markConnect (h : Kept s t) (l : LineNo) : Kept s (t.markConnect l) := by
  unfold State.markConnect
  repeat' first
    | with_reducible exact h
    | with_reducible apply setCall
    | with_reducible apply connectMeter
    | split

theorem linkCaller (h : Kept s t) (l : LineNo) (f : OutgoingFacts) : Kept s (t.linkCaller l f) := by
  unfold State.linkCaller
  dsimp only
  repeat' first
    | with_reducible exact h
    | with_reducible apply setLn
    | with_reducible apply setLink
    | with_reducible apply setLineState
    | with_reducible apply setTimer

theorem answered (h : Kept s t) (l : LineNo) : Kept s (t.answered l) := by
  unfold State.answered
  repeat' first
    | with_reducible exact h
    | with_reducible apply linkCaller
    | with_reducible apply markConnect
    | split

theorem linkAnswerer (h : Kept s t) (l : LineNo) (c : Call) (rings : Nat) : Kept s (t.linkAnswerer l c rings) := by
  unfold State.linkAnswerer
  dsimp only
  repeat' first
    | with_reducible exact h
    | with_reducible apply setCall
    | with_reducible apply command
    | with_reducible apply setLn
    | with_reducible apply setLink
    | with_reducible apply setLineState
    | with_reducible apply setTimer
    | with_reducible apply raise

theorem answerCall (h : Kept s t) (l : LineNo) (c : Call) : Kept s (t.answerCall l c) := by
  unfold State.answerCall
  repeat' first
    | with_reducible exact h
    | with_reducible apply hookOff
    | with_reducible apply linkAnswerer

theorem glare (h : Kept s t) (l : LineNo) (c : Call) (f : OutgoingFacts) : Kept s (t.glare l c f) := by
  unfold State.glare
  dsimp only
  repeat' first
    | with_reducible exact h
    | with_reducible apply setCall
    | with_reducible apply discardMeter
    | with_reducible apply applyOutcome
    | with_reducible apply hookOff
    | with_reducible apply linkAnswerer

theorem startRinging (h : Kept s t) (l : LineNo) : Kept s (t.startRinging l) := by
  unfold State.startRinging
  dsimp only
  repeat' first
    | with_reducible exact h
    | with_reducible apply setCall
    | with_reducible apply setLineState

theorem ringStart (h : Kept s t) (l : LineNo) : Kept s (t.ringStart l) := by
  unfold State.ringStart
  dsimp only
  repeat' first
    | with_reducible exact h
    | with_reducible apply startRinging
    | with_reducible apply setCall
    | with_reducible apply stopTimer
    | with_reducible apply glare
    | split

theorem ringEnd (h : Kept s t) (l : LineNo) : Kept s (t.ringEnd l) := by
  unfold State.ringEnd
  dsimp only
  repeat' first
    | with_reducible exact h
    | with_reducible apply answerCall
    | with_reducible apply setTimer
    | split

theorem ringGap (h : Kept s t) (l : LineNo) : Kept s (t.ringGap l) := by
  unfold State.ringGap
  repeat' first
    | with_reducible exact h
    | with_reducible exact id
    | with_reducible rfl
    | with_reducible assumption
    | with_reducible apply setLine
    | split
  all_goals simp [LineChannel.emptied]

theorem dialTone (h : Kept s t) (l : LineNo) : Kept s (t.dialTone l) := by
  unfold State.dialTone
  repeat' first
    | with_reducible exact h
    | with_reducible apply beginDialling
    | with_reducible apply nibbleDone
    | split

theorem breakDone (h : Kept s t) (l : LineNo) : Kept s (t.breakDone l) := by
  unfold State.breakDone
  repeat' first
    | with_reducible exact h
    | with_reducible exact id
    | with_reducible rfl
    | with_reducible assumption
    | with_reducible apply setLine
    | with_reducible apply setTimer
    | split
  all_goals simp

theorem makeDone (h : Kept s t) (l : LineNo) (current : Bool) : Kept s (t.makeDone l current) := by
  unfold State.makeDone
  dsimp only
  repeat' first
    | with_reducible exact h
    | with_reducible apply endCall
    | with_reducible apply setCall
    | with_reducible apply setTimer
    | with_reducible apply startBreak
    | split

theorem settled (h : Kept s t) (l : LineNo) (current : Bool) : Kept s (t.settled l current) := by
  unfold State.settled
  dsimp only
  repeat' first
    | with_reducible exact h
    | with_reducible exact id
    | with_reducible rfl
    | with_reducible assumption
    | with_reducible apply setLine
    | with_reducible apply endCall
    | split
  all_goals simp

theorem loopLoss (h : Kept s t) (l : LineNo) : Kept s (t.loopLoss l) := by
  unfold State.loopLoss
  repeat' first
    | with_reducible exact h
    | with_reducible apply endCall
    | split

theorem reversal (h : Kept s t) (l : LineNo) : Kept s (t.reversal l) := by
  unfold State.reversal
  repeat' first
    | with_reducible exact h
    | with_reducible apply markConnect
    | split

theorem meterPulse (h : Kept s t) (l : LineNo) : Kept s (t.meterPulse l) := by
  unfold State.meterPulse
  repeat' first
    | with_reducible exact h
    | with_reducible apply countPulse
    | split

theorem restDone (h : Kept s t) (l : LineNo) : Kept s (t.restDone l) := by
  unfold State.restDone
  dsimp only
  repeat' first
    | with_reducible exact h
    | with_reducible exact id
    | with_reducible rfl
    | with_reducible assumption
    | with_reducible apply setLine
    | split
    | with_reducible apply dispatcher
  all_goals simp [LineChannel.emptied]

theorem timeoutEnds (h : Kept s t) (l : LineNo) (kind : TimerKind) (o : CallOutcome) : Kept s (t.timeoutEnds l kind o) := by
  unfold State.timeoutEnds
  repeat' first
    | with_reducible exact h
    | with_reducible apply endCall
    | split

theorem busyTone (h : Kept s t) (l : LineNo) : Kept s (t.busyTone l) := by
  unfold State.busyTone
  repeat' first
    | with_reducible exact h
    | with_reducible apply endCall
    | split

theorem answerTone (h : Kept s t) (l : LineNo) : Kept s (t.answerTone l) := by
  unfold State.answerTone
  repeat' first
    | with_reducible exact h
    | with_reducible apply answered
    | split

end Sys2Proof.Machine.Kept
end

