-- ==== Sys2Proof/Laws/KeptLink.lean ====
section
/-! SUPPORT. What the operations of Machine/Link.lean keep (Laws/Kept.lean). -/

-- One thread: the package as one text is checked under a memory limit, and each thread counts.
set_option Elab.async false

namespace Sys2Proof.Machine.Kept

variable {s t u : State}

theorem onLn (h : Kept s t) (l : LineNo) (f : LineContext → LineContext) : Kept s (t.onLn l f) := by
  unfold State.onLn
  repeat' first
    | with_reducible exact h
    | with_reducible apply setLn

theorem sendFresh (h : Kept s t) (l : LineNo) (f : Frame) : Kept s (t.sendFresh l f) := by
  unfold State.sendFresh
  repeat' first
    | with_reducible exact h
    | with_reducible apply onLink
    | with_reducible apply send

theorem sendRepeat (h : Kept s t) (l : LineNo) (f : Frame) : Kept s (t.sendRepeat l f) := by
  unfold State.sendRepeat
  repeat' first
    | with_reducible exact h
    | with_reducible apply onLink
    | with_reducible apply send

theorem sendChoice (h : Kept s t) (l : LineNo) (r : Resolution) (rate : Nat) : Kept s (t.sendChoice l r rate) := by
  unfold State.sendChoice
  dsimp only
  repeat' first
    | with_reducible exact h
    | with_reducible apply stopTimer
    | with_reducible apply onLink
    | with_reducible apply sendFresh
    | split

theorem repeatChoice (h : Kept s t) (l : LineNo) (counted : Bool) : Kept s (t.repeatChoice l counted) := by
  unfold State.repeatChoice
  dsimp only
  repeat' first
    | with_reducible exact h
    | with_reducible apply stopTimer
    | with_reducible apply onLink
    | with_reducible apply sendRepeat
    | with_reducible apply sendFresh
    | split

theorem takeOffer (h : Kept s t) (l : LineNo) (f : OutgoingFacts) (reference : Bool) (maxK : Nat) (fine : Bool) (maxRate : Nat) (tag : Tag) : Kept s (t.takeOffer l f reference maxK fine maxRate tag) := by
  unfold State.takeOffer
  dsimp only
  repeat' first
    | with_reducible exact h
    | with_reducible apply onLink
    | with_reducible apply onLn
    | with_reducible apply sendChoice
    | split

theorem sendPageEnd (h : Kept s t) (l : LineNo) (f : OutgoingFacts) (x : SendPage) : Kept s (t.sendPageEnd l f x) := by
  unfold State.sendPageEnd
  repeat' first
    | with_reducible exact h
    | with_reducible apply sendFresh

theorem startPage (h : Kept s t) (l : LineNo) (f : OutgoingFacts) (k : Link) (i times : Nat) (draft : Bool) : Kept s (t.startPage l f k i times draft) := by
  unfold State.startPage
  dsimp only
  repeat' first
    | with_reducible exact h
    | with_reducible refine takeReference ?_ (by assumption)
    | with_reducible apply meterPageBegun
    | with_reducible apply onLn
    | with_reducible apply send
    | with_reducible apply stopTimer
    | with_reducible apply onLink
    | with_reducible apply sendPageEnd
    | with_reducible apply takeReferenceOr
    | split

theorem beginPage (h : Kept s t) (l : LineNo) (f : OutgoingFacts) (i times : Nat) : Kept s (t.beginPage l f i times) := by
  unfold State.beginPage
  dsimp only
  repeat' first
    | with_reducible exact h
    | with_reducible apply startPage
    | with_reducible apply sendChoice
    | split

theorem nextPage (h : Kept s t) (l : LineNo) (f : OutgoingFacts) : Kept s (t.nextPage l f) := by
  unfold State.nextPage
  repeat' first
    | with_reducible exact h
    | with_reducible apply beginPage
    | split

theorem confirmPage (h : Kept s t) (l : LineNo) (f : OutgoingFacts) (x : SendPage) (capped : Bool) : Kept s (t.confirmPage l f x capped) := by
  unfold State.confirmPage
  dsimp only
  repeat' first
    | with_reducible exact h
    | with_reducible apply onLink
    | with_reducible apply endCall
    | with_reducible apply nextPage
    | split

theorem takeVerdict (h : Kept s t) (l : LineNo) (f : OutgoingFacts) (x : SendPage) (j : Judgement) : Kept s (t.takeVerdict l f x j) := by
  unfold State.takeVerdict
  dsimp only
  repeat' first
    | with_reducible exact h
    | with_reducible apply endSentPage
    | with_reducible apply stopTimer
    | with_reducible apply meterVerdict
    | with_reducible apply confirmPage
    | with_reducible apply endCall
    | with_reducible apply onLink
    | with_reducible apply beginPage
    | split

theorem callerFrame (h : Kept s t) (l : LineNo) (f : OutgoingFacts) (k : Link) (x : Frame) : Kept s (t.callerFrame l f k x) := by
  unfold State.callerFrame
  repeat' first
    | with_reducible exact h
    | with_reducible apply takeOffer
    | with_reducible apply stopTimer
    | with_reducible apply onLink
    | with_reducible apply nextPage
    | with_reducible apply sendChoice
    | with_reducible apply endCall
    | with_reducible apply repeatChoice
    | with_reducible apply takeVerdict
    | split

theorem afterSend (h : Kept s t) (l : LineNo) : Kept s (t.afterSend l) := by
  unfold State.afterSend
  repeat' first
    | with_reducible exact h
    | with_reducible exact id
    | with_reducible rfl
    | with_reducible assumption
    | with_reducible apply setLine
    | with_reducible apply send
    | split
  all_goals simp

theorem enterPhase (h : Kept s t) (l : LineNo) (p : Phase) : Kept s (t.enterPhase l p) := by
  unfold State.enterPhase
  repeat' first
    | with_reducible exact h
    | with_reducible apply onLink

theorem frameSentLinked (h : Kept s t) (l : LineNo) (f : Frame) : Kept s (t.frameSentLinked l f) := by
  unfold State.frameSentLinked
  repeat' first
    | with_reducible exact h
    | with_reducible apply enterPhase
    | with_reducible apply send
    | with_reducible apply setTimer
    | with_reducible apply listen
    | split

theorem frameSent (h : Kept s t) (l : LineNo) : Kept s (t.frameSent l) := by
  unfold State.frameSent
  dsimp only
  repeat' first
    | with_reducible exact h
    | with_reducible apply sendEnded
    | with_reducible apply frameSentLinked
    | with_reducible apply hookOn
    | with_reducible apply afterSend
    | split

theorem checkSent (h : Kept s t) (l : LineNo) : Kept s (t.checkSent l) := by
  unfold State.checkSent
  dsimp only
  repeat' first
    | with_reducible exact h
    | with_reducible apply sendEnded
    | with_reducible apply enterPhase
    | with_reducible apply setTimer
    | with_reducible apply afterSend
    | split

theorem parcelTaken (h : Kept s t) (l : LineNo) : Kept s (t.parcelTaken l) := by
  unfold State.parcelTaken
  dsimp only
  repeat' first
    | with_reducible exact h
    | with_reducible exact id
    | with_reducible rfl
    | with_reducible assumption
    | with_reducible apply sendEnded
    | with_reducible apply setLine
    | with_reducible apply send
    | with_reducible apply sendPageEnd
    | with_reducible apply afterSend
    | split
  all_goals simp

theorem handParcel (h : Kept s t) (l : LineNo) (bytes : List Byte) : Kept s (t.handParcel l bytes) := by
  unfold State.handParcel
  repeat' first
    | with_reducible exact h
    | with_reducible exact id
    | with_reducible rfl
    | with_reducible assumption
    | with_reducible apply setLine
    | with_reducible apply send
  all_goals simp

theorem lnSendGrant (h : Kept s t) (l : LineNo) : Kept s (t.lnSendGrant l) := by
  unfold State.lnSendGrant
  repeat' first
    | with_reducible exact h
    | with_reducible apply send
    | with_reducible apply setLn
    | with_reducible apply handParcel
    | split

end Sys2Proof.Machine.Kept
end

