-- ==== Sys2Proof/Laws/KeptReceive.lean ====
section
/-! SUPPORT. What the operations of Machine/Receive.lean keep (Laws/Kept.lean). -/

-- One thread: the package as one text is checked under a memory limit, and each thread counts.
set_option Elab.async false

namespace Sys2Proof.Machine.Kept

variable {s t u : State}

theorem tonePlayed (h : Kept s t) (l : LineNo) : Kept s (t.tonePlayed l) := by
  unfold State.tonePlayed
  dsimp only
  repeat' first
    | with_reducible exact h
    | with_reducible apply stopTimer
    | with_reducible apply enterPhase
    | with_reducible apply sendFresh
    | split

theorem takeChoice (h : Kept s t) (l : LineNo) (coding : Coding) (r : Resolution) (rate : Nat) (tag : Tag) : Kept s (t.takeChoice l coding r rate tag) := by
  unfold State.takeChoice
  dsimp only
  repeat' first
    | with_reducible exact h
    | with_reducible apply stopTimer
    | with_reducible apply onLink
    | with_reducible apply onLn
    | with_reducible apply listen

theorem startGap (h : Kept s t) (l : LineNo) : Kept s (t.startGap l) := by
  unfold State.startGap
  repeat' first
    | with_reducible exact h
    | with_reducible apply setTimer

theorem checkGood (h : Kept s t) (l : LineNo) : Kept s (t.checkGood l) := by
  unfold State.checkGood
  dsimp only
  repeat' first
    | with_reducible exact h
    | with_reducible apply onLink
    | with_reducible apply sendFresh
    | with_reducible apply listen
    | with_reducible apply startGap
    | split

theorem checkBad (h : Kept s t) (l : LineNo) : Kept s (t.checkBad l) := by
  unfold State.checkBad
  repeat' first
    | with_reducible exact h
    | with_reducible apply enterPhase
    | with_reducible apply sendFresh
    | split

theorem onPage (h : Kept s t) (l : LineNo) (f : ReceivePage → ReceivePage) : Kept s (t.onPage l f) := by
  unfold State.onPage
  repeat' first
    | with_reducible exact h
    | with_reducible apply onLink

theorem beginParcel (h : Kept s t) (l : LineNo) : Kept s (t.beginParcel l) := by
  unfold State.beginParcel
  repeat' first
    | with_reducible exact h
    | with_reducible apply onPage
    | with_reducible apply onLn
    | split

theorem endParcel (h : Kept s t) (l : LineNo) : Kept s (t.endParcel l) := by
  unfold State.endParcel
  repeat' first
    | with_reducible exact h
    | with_reducible exact id
    | with_reducible rfl
    | with_reducible assumption
    | with_reducible apply setLine
    | with_reducible apply beginParcel
  all_goals simp

theorem beginReceive (h : Kept s t) (l : LineNo) (seq : Byte) (output : Output) : Kept s (t.beginReceive l seq output) := by
  unfold State.beginReceive
  repeat' first
    | with_reducible exact h
    | with_reducible apply onLink
    | with_reducible apply onLn

theorem keepAwaited (h : Kept s t) (l : LineNo) : Kept s (t.keepAwaited l) := by
  unfold State.keepAwaited
  repeat' first
    | with_reducible exact h
    | with_reducible apply onLink

theorem createReceived (h : Kept s t) {r : Resolution} {tag : Tag} {p : Nat}
    (e : t.createReceived r tag = some (u, p)) : Kept s u := by
  unfold State.createReceived at e
  split at e
  · exact h.createPage e
  · cases e

theorem decideStorage (h : Kept s t) (l : LineNo) (seq : Byte) : Kept s (t.decideStorage l seq) := by
  unfold State.decideStorage
  split
  · dsimp only
    split
    · exact (h.createReceived ‹_›).beginReceive _ _ _
    · split
      · exact ((h.grantThrough ‹_›).keepAwaited _).beginReceive _ _ _
      · exact (h.resolveAwaited _).beginReceive _ _ _
  · exact h

theorem beginReceive_received (t : State) (l : LineNo) (seq : Byte) (o : Output) :
    ((t.beginReceive l seq o).line l).received = (t.line l).received := by
  simp [State.beginReceive, State.onLn, State.onLink, State.setLink]
  simp [State.line, State.setLn, State.setLine]

theorem decideStorage_received (t : State) (l : LineNo) (seq : Byte) :
    ((t.decideStorage l seq).line l).received = (t.line l).received := by
  unfold State.decideStorage
  split
  · dsimp only
    split
    · rename_i u p e
      rw [beginReceive_received]
      unfold State.createReceived at e
      split at e
      · exact ((LinesLeft.refl t).createPage e).received l
      · cases e
    · split
      · rename_i u e
        rw [beginReceive_received, ← ((LinesLeft.refl t).grantThrough e).received l]
        simp [State.keepAwaited, State.onLink, State.setLink]
      · rw [beginReceive_received]
        unfold State.resolveAwaited
        split
        · split
          · rw [((LinesLeft.refl _).autoPrint _).received l]
            simp [State.onLink, State.setLink]
          · rfl
        · rfl
  · rfl

theorem keepParcel (h : Kept s t) (l : LineNo) (b : List Byte) (hr : (t.line l).received.length < 2) :
    Kept s (t.keepParcel l b) := by
  unfold State.keepParcel
  split
  · split
    · split
      · dsimp only
        have k : Kept s (t.setLine l { t.line l with received := (t.line l).received ++ [b] }) :=
          h.setLine l rfl (.inr (by simp; omega))
        split
        · exact k.beginParcel _
        · exact k
      · exact h
    · exact h
  · exact h

theorem placeParcel (h : Kept s t) (l : LineNo) (k : Link) (b : List Byte)
    (hr : (t.line l).received.length < 2) : Kept s (t.placeParcel l k b) := by
  unfold State.placeParcel
  split
  · dsimp only
    split
    · exact (h.decideStorage _ _).keepParcel _ _ (by rwa [decideStorage_received])
    · exact h.keepParcel _ _ hr
  · exact h

theorem parcelIn (h : Kept s t) (l : LineNo) (b : List Byte) : Kept s (t.parcelIn l b) := by
  unfold State.parcelIn
  split
  · split
    · split
      · dsimp only
        split
        · exact (h.startGap _).placeParcel _ _ _ (by
            simp only [State.startGap, State.setTimer, State.line_setLine]
            assumption)
        · exact h.startGap _
      · split
        · exact h.placeParcel _ _ _ ‹_›
        · exact h
      · exact h
    · exact h
  · exact h

theorem carrierLost (h : Kept s t) (l : LineNo) : Kept s (t.carrierLost l) := by
  unfold State.carrierLost
  repeat' first
    | with_reducible exact h
    | with_reducible apply endCall
    | split

theorem gapExpired (h : Kept s t) (l : LineNo) : Kept s (t.gapExpired l) := by
  unfold State.gapExpired
  dsimp only
  repeat' first
    | with_reducible exact h
    | with_reducible apply endCall
    | split

theorem finishPage (h : Kept s t) (l : LineNo) (lines : Nat) (last : Bool) : Kept s (t.finishPage l lines last) := by
  unfold State.finishPage
  repeat' first
    | with_reducible exact h
    | with_reducible apply stopTimer
    | with_reducible apply enterPhase
    | with_reducible apply onPage

theorem oldPageEnd (h : Kept s t) (l : LineNo) (k : Link) (seq : Byte) : Kept s (t.oldPageEnd l k seq) := by
  unfold State.oldPageEnd
  repeat' first
    | with_reducible exact h
    | with_reducible apply sendFresh
    | with_reducible apply startGap
    | split

theorem takePageEnd (h : Kept s t) (l : LineNo) (k : Link) (seq : Byte) (lines : Nat) (last : Bool) : Kept s (t.takePageEnd l k seq lines last) := by
  unfold State.takePageEnd
  repeat' first
    | with_reducible exact h
    | with_reducible apply finishPage
    | with_reducible apply oldPageEnd
    | with_reducible apply decideStorage
    | split

theorem answererFrame (h : Kept s t) (l : LineNo) (k : Link) (x : Frame) : Kept s (t.answererFrame l k x) := by
  unfold State.answererFrame
  repeat' first
    | with_reducible exact h
    | with_reducible apply takeChoice
    | with_reducible apply endCall
    | with_reducible apply takePageEnd
    | split

theorem frameIn (h : Kept s t) (l : LineNo) (frame : Option Frame) : Kept s (t.frameIn l frame) := by
  unfold State.frameIn
  repeat' first
    | with_reducible exact h
    | with_reducible apply callerFrame
    | with_reducible apply answererFrame
    | split

theorem repeatFrame (h : Kept s t) (l : LineNo) (k : Link) : Kept s (t.repeatFrame l k) := by
  unfold State.repeatFrame
  repeat' first
    | with_reducible exact h
    | with_reducible apply onLink
    | with_reducible apply setTimer
    | with_reducible apply repeatChoice
    | with_reducible apply stopTimer
    | with_reducible apply sendRepeat
    | split

theorem frameWaitExpired (h : Kept s t) (l : LineNo) : Kept s (t.frameWaitExpired l) := by
  unfold State.frameWaitExpired
  repeat' first
    | with_reducible exact h
    | with_reducible apply repeatFrame
    | with_reducible apply endCall
    | split

theorem truncateReceived (h : Kept s t) (l : LineNo) (p : Nat) : Kept s (t.truncateReceived l p) := by
  unfold State.truncateReceived
  dsimp only
  repeat' first
    | with_reducible exact h
    | with_reducible exact id
    | with_reducible rfl
    | with_reducible assumption
    | with_reducible apply pageRecord
    | with_reducible apply onPage
    | with_reducible apply setLine
    | split
  all_goals simp

theorem commitWaiting (h : Kept s t) (l : LineNo) (p : Nat) (enc : EncodeFrame) (w : WaitingLine) : Kept s (t.commitWaiting l p enc w) := by
  unfold State.commitWaiting
  dsimp only
  repeat' first
    | with_reducible exact h
    | with_reducible refine commit ?_ (by assumption)
    | with_reducible apply onPage
    | with_reducible apply onLn
    | with_reducible apply truncateReceived
    | split

theorem decodeParcelLine (h : Kept s t) (l : LineNo) (coding : Coding) (r : ReceiveHalf) (b : List Byte) : Kept s (t.decodeParcelLine l coding r b) := by
  unfold State.decodeParcelLine
  dsimp only
  repeat' first
    | with_reducible exact h
    | with_reducible apply onPage
    | with_reducible apply endParcel
    | with_reducible apply onLn
    | split

theorem lnReceiveGrant (h : Kept s t) (l : LineNo) : Kept s (t.lnReceiveGrant l) := by
  unfold State.lnReceiveGrant
  repeat' first
    | with_reducible exact h
    | with_reducible apply commitWaiting
    | with_reducible apply handThrough
    | with_reducible apply onPage
    | with_reducible apply decodeParcelLine
    | split

theorem sealFirst (h : Kept s t) (l : LineNo) (p announced : Nat) (poor : Bool) (flags : Byte) : Kept s (t.sealFirst l p announced poor flags) := by
  unfold State.sealFirst
  repeat' first
    | with_reducible exact h
    | with_reducible apply onLink
    | with_reducible apply sealPage
    | with_reducible apply autoPrint
    | split

theorem sealResend (h : Kept s t) (l : LineNo) (p announced : Nat) (a : Awaited) (flags : Byte) : Kept s (t.sealResend l p announced a flags) := by
  unfold State.sealResend
  dsimp only
  repeat' first
    | with_reducible exact h
    | with_reducible apply sealPage
    | with_reducible apply dropPage
    | with_reducible apply keepAwaited
    | with_reducible apply autoPrint

theorem endOutput (h : Kept s t) (l : LineNo) (k : Link) (x : ReceivePage) (j : Judgement) (flags : Byte) : Kept s (t.endOutput l k x j flags) := by
  unfold State.endOutput
  dsimp only
  repeat' first
    | with_reducible exact h
    | with_reducible apply sealResend
    | with_reducible apply sealFirst
    | with_reducible apply endThrough
    | split

theorem decideVerdict (h : Kept s t) (l : LineNo) : Kept s (t.decideVerdict l) := by
  unfold State.decideVerdict
  dsimp only
  repeat' first
    | with_reducible exact h
    | with_reducible apply endOutput
    | with_reducible apply onLink
    | with_reducible apply sendFresh
    | with_reducible apply startGap
    | split

end Sys2Proof.Machine.Kept
end

