-- ==== Sys2Proof/Laws/KeptScan.lean ====
section
/-! SUPPORT. What the operations of Machine/Scan.lean keep (Laws/Kept.lean). -/

-- One thread: the package as one text is checked under a memory limit, and each thread counts.
set_option Elab.async false

namespace Sys2Proof.Machine.Kept

variable {s t u : State}

theorem onScan (h : Kept s t) {f : ScanUnit → ScanUnit}
    (h1 : t.scan.ring.length ≤ 16 → (f t.scan).ring.length ≤ 16)
    (h2 : t.scan.feedSteps ≤ 400 → (f t.scan).feedSteps ≤ 400) : Kept s (t.onScan f) :=
  h.scan h1 h2

/-- A change of the Scan Unit that leaves its ring and feed step count as they are. -/
theorem onScanSame (h : Kept s t) {f : ScanUnit → ScanUnit} (h1 : (f t.scan).ring = t.scan.ring)
    (h2 : (f t.scan).feedSteps = t.scan.feedSteps) : Kept s (t.onScan f) :=
  h.onScan (by rw [h1]; exact id) (by rw [h2]; exact id)

theorem endScan (h : Kept s t) (code : EndCode) (dropped : Option Nat) :
    Kept s (t.endScan code dropped) := by
  unfold State.endScan
  dsimp only
  with_reducible apply raise
  refine engineSame (t := t.onScan fun u => { u with state := .idle, ring := [], page := none })
    (h.onScan (by simp) id) rfl rfl

theorem endScanDropping (h : Kept s t) (code : EndCode) : Kept s (t.endScanDropping code) := by
  have k : Kept s (t.onScan fun u => { u with ring := [] }) := h.onScan (by simp) id
  unfold State.endScanDropping
  dsimp only
  split
  · exact (k.dropPage _ _).endScan _ _
  · exact k.endScan _ _

theorem feedSheet (h : Kept s t) : Kept s t.feedSheet := h.onScan id (by simp)

theorem closeSheet (h : Kept s t) (p : Nat) (sheet : Bool) : Kept s (t.closeSheet p sheet) := by
  have k : Kept s ((t.sealPage p 0).onScan fun u =>
      { u with page := none, pagesSealed := u.pagesSealed + 1 }) :=
    (h.sealPage _ _).onScan id id
  unfold State.closeSheet
  dsimp only
  split
  · exact k.feedSheet
  · exact k.endScan _ _

theorem closeIfEmpty (h : Kept s t) (sheet : Bool) : Kept s (t.closeIfEmpty sheet) := by
  unfold State.closeIfEmpty
  repeat' first
    | with_reducible exact h
    | with_reducible apply closeSheet
    | split

theorem beginScan (h : Kept s t) (r : Resolution) (th : Threshold) (pages : Nat) :
    Kept s (t.beginScan r th pages) := by
  unfold State.beginScan
  dsimp only
  with_reducible apply feedSheet
  exact engineSame (h.onScanSame rfl rfl) rfl rfl

theorem edgeFound (h : Kept s t) : Kept s t.edgeFound := by
  unfold State.edgeFound
  split
  · exact h.endScan _ _
  · exact engineSame ((h.createPage ‹_›).onScanSame rfl rfl) rfl rfl

theorem stepMotor (h : Kept s t) (n : Nat) : Kept s (t.stepMotor n) := h.onScanSame rfl rfl

theorem feedStep (h : Kept s t) (edge : Bool) : Kept s (t.feedStep edge) := by
  unfold State.feedStep
  split
  · rename_i c
    split
    · exact (h.stepMotor 1).edgeFound
    · refine (h.stepMotor 1).onScan (f := fun u => { u with feedSteps := u.feedSteps + 1 }) id (fun _ => ?_)
      simp at c
      simp [State.stepMotor, State.onScan]; omega
  · exact h

theorem feedExpired (h : Kept s t) : Kept s (t.feedExpired) := by
  unfold State.feedExpired
  repeat' first
    | with_reducible exact h
    | with_reducible apply endScan
    | split

theorem readScanLine (h : Kept s t) (even odd : List Byte) (hr : t.scan.ring.length < 16) :
    Kept s (t.readScanLine even odd) := by
  unfold State.readScanLine
  dsimp only
  exact h.onScan (by simp; omega) id

theorem scanLineStep (h : Kept s t) (edge sheet : Bool) (even odd : List Byte) :
    Kept s (t.scanLineStep edge sheet even odd) := by
  unfold State.scanLineStep
  split
  · rename_i c
    have k := h.stepMotor t.scan.resolution.motorSteps
    dsimp only
    split
    · exact Kept.closeIfEmpty (k.onScanSame rfl rfl) _
    · split
      · exact k.endScanDropping _
      · exact k.readScanLine _ _ (by simp at c; exact c.2)
  · exact h

theorem waitForStore (h : Kept s t) : Kept s t.waitForStore := h.onScanSame rfl rfl

theorem scGrant (h : Kept s t) (sheet : Bool) : Kept s (t.scGrant sheet) := by
  unfold State.scGrant
  split
  · rename_i f x rest e1 e2
    dsimp only
    split
    · rename_i u e
      with_reducible apply closeIfEmpty
      have k : Kept s u := h.commit e
      exact { settings := k.settings, time := k.time, pending := k.pending, sequence := k.sequence,
              hold := k.hold, sound := fun i => { k.sound i with
                ring := by
                  have := (h.sound i).ring
                  rw [e2] at this
                  simp [State.onScan] at this ⊢
                  omega } }
    · exact h.waitForStore
    · exact h.waitForStore
    · exact h.waitForStore
  · exact h

theorem storeWaitExpired (h : Kept s t) : Kept s (t.storeWaitExpired) := by
  unfold State.storeWaitExpired
  repeat' first
    | with_reducible exact h
    | with_reducible apply endScanDropping
    | split

end Sys2Proof.Machine.Kept
end

