-- ==== Sys2Proof/Laws/KeptCompose.lean ====
section
/-! SUPPORT. What the operations of Machine/Compose.lean keep (Laws/Kept.lean). -/

-- One thread: the package as one text is checked under a memory limit, and each thread counts.
set_option Elab.async false

namespace Sys2Proof.Machine.Kept

variable {s t u : State}

theorem setAperture (h : Kept s t) (e : Fin 8) (x : Aperture) : Kept s (t.setAperture e x) :=
  h.path rfl rfl rfl rfl rfl rfl id id

theorem bind (h : Kept s t) (e : Fin 8) (b : Option Binding) : Kept s (t.bind e b) := h.setAperture _ _

/-- A compose context replaced by one whose queue is within its two slots. -/
theorem setCpSome (h : Kept s t) (i : Fin 2) {c : ComposeContext}
    (hc : s.Sound → c.queue.length ≤ 2) : Kept s (t.setCp i (some c)) :=
  { settings := h.settings, time := h.time, pending := h.pending, sequence := h.sequence,
    hold := h.hold, sound := fun k => { h.sound k with
      composeQueues := fun j x e => by
        rw [State.compose_setCp_eq] at e
        split at e
        · cases e; exact hc k
        · exact (h.sound k).composeQueues _ _ e } }

theorem setCpNone (h : Kept s t) (i : Fin 2) : Kept s (t.setCp i none) :=
  h.setCp i (fun _ e => by cases e)

theorem nextLine_queue (c : ComposeContext) : c.nextLine.2.queue.length ≤ c.queue.length := by
  unfold ComposeContext.nextLine
  split
  · split <;> simp_all
  · simp

theorem close_queue {c : ComposeContext} (h : c.current.isNone = true ∨ c.hasSlot = true)
    (h2 : c.queue.length ≤ 2) : c.close.queue.length ≤ 2 := by
  unfold ComposeContext.close
  split
  · rcases h with h | h
    · simp_all
    · simp [ComposeContext.hasSlot] at h ⊢; omega
  · exact h2

theorem endComposeWait (h : Kept s t) (e : Fin 8) : Kept s (t.endComposeWait e) := by
  unfold State.endComposeWait
  split
  · split
    · exact h.endCycle _ (by simp [PathUnit.accessWaits, *])
    · exact h
  · exact h

theorem truncateCompose (h : Kept s t) (i : Fin 2) (c : ComposeContext) :
    Kept s (t.truncateCompose i c) := by
  unfold State.truncateCompose
  dsimp only
  split
  · exact ((h.pageRecord _ _).setCpSome i (by simp)).endComposeWait _
  · exact (h.setCpSome i (by simp)).endComposeWait _

theorem cpGrant (h : Kept s t) (i : Fin 2) : Kept s (t.cpGrant i) := by
  unfold State.cpGrant
  split
  · rename_i c e
    dsimp only
    split
    · exact (h.commit ‹_›).setCpSome i
        (fun k => le_trans (nextLine_queue c) ((h.sound k).composeQueues _ _ e))
    · exact h.truncateCompose _ _
    · exact h.truncateCompose _ _
    · exact h.truncateCompose _ _
  · exact h

theorem openCompose (h : Kept s t) (e : Fin 8) (p : Nat) (i : Fin 2) : Kept s (t.openCompose e p i) :=
  (h.setCpSome i (by simp [ComposeContext.start])).bind _ _

theorem closeWindow (h : Kept s t) (e : Fin 8) (i : Fin 2) (c : ComposeContext)
    (hc : t.compose i = some c) : Kept s (t.closeWindow e i c) := by
  unfold State.closeWindow
  split
  · exact h
  · with_reducible apply endComposeWait
    refine h.setCpSome i (fun k => ?_)
    exact (h.sound k).composeQueues i c hc

theorem closeForSeal (h : Kept s t) (i : Fin 2) : Kept s (t.closeForSeal i) := by
  unfold State.closeForSeal
  split
  · rename_i c e
    split
    · rename_i w
      simp at w
      exact h.setCpSome i (fun k => close_queue (.inr w.2) ((h.sound k).composeQueues _ _ e))
    · exact h
  · exact h

theorem sealCompose (h : Kept s t) (e : Fin 8) (i : Fin 2) (c : ComposeContext) :
    Kept s (t.sealCompose e i c) := ((h.sealPage _ _).bind _ _).setCpNone _

theorem unbindCompose (h : Kept s t) (e : Fin 8) (i : Fin 2) (c : ComposeContext) :
    Kept s (t.unbindCompose e i c) := (((h.endComposeWait _).dropPage _ _).bind _ _).setCpNone _

theorem restartCompose (h : Kept s t) (i : Fin 2) : Kept s (t.restartCompose i) := by
  unfold State.restartCompose
  split
  · dsimp only
    split
    · exact (h.dropPage _ _).setCpNone _
    · exact h.setCpNone _
  · exact h

end Sys2Proof.Machine.Kept
end

