-- ==== Sys2Proof/Laws/KeptView.lean ====
section
/-! SUPPORT. What the operations of Machine/View.lean keep (Laws/Kept.lean). -/

-- One thread: the package as one text is checked under a memory limit, and each thread counts.
set_option Elab.async false

namespace Sys2Proof.Machine.Kept

variable {s t u : State}

/-- A raster context replaced by a view whose cache is within its four lines. -/
theorem setRvSome (h : Kept s t) (i : Fin 2) {v : ViewContext} (hv : s.Sound → v.cache.length ≤ 4) :
    Kept s (t.setRv i (some v)) :=
  { settings := h.settings, time := h.time, pending := h.pending, sequence := h.sequence,
    hold := h.hold, sound := fun k => { h.sound k with
      caches := fun j x e => by
        rw [State.view_setRv_eq] at e
        split at e
        · cases e; exact hv k
        · exact (h.sound k).caches _ _ e } }

theorem enter_cache {v : ViewContext} (h : v.cache.length ≤ 4) (line : Nat) (x : Raster) :
    (v.enter line x).cache.length ≤ 4 := by
  have f := List.length_filter_le (fun (y : Nat × Raster) => y.1 != line) v.cache
  unfold ViewContext.enter
  dsimp only
  split <;> simp <;> omega

theorem rvGrant (h : Kept s t) (i : Fin 2) : Kept s (t.rvGrant i) := by
  unfold State.rvGrant
  split
  · rename_i v e
    split
    · split
      · refine h.setRvSome i (fun k => ?_)
        exact enter_cache ((h.sound k).caches i v e) _ _
      · exact h
    · exact h
  · exact h

theorem viewReadDone (h : Kept s t) : Kept s t.viewReadDone := by
  unfold State.viewReadDone
  split
  · rename_i w i v e1 e2
    split
    · split
      · refine (h.setRvSome i (fun k => ?_)).endCycle _ (waitingView_access (t := t) e2)
        exact enter_cache ((h.sound k).caches i v (waitingView_isSome e2)) _ _
      · exact h
    · exact h
  · exact h

theorem viewReadExpired (h : Kept s t) : Kept s t.viewReadExpired := by
  unfold State.viewReadExpired
  split
  · rename_i i v e
    refine h.setRvSome i (fun k => ?_)
    exact (h.sound k).caches i v (waitingView_isSome e)
  · exact h

theorem bindRasterCheck (h : Kept s t) {e : Fin 8} {p : Nat} {i : Fin 2}
    (k : t.bindRasterCheck e p = .ok (u, i)) : Kept s u := by
  unfold State.bindRasterCheck at k
  split at k
  · cases k
  · split at k
    · cases k
    · split at k
      · cases k
      · split at k
        · cases k
        · split at k
          · cases k
          · cases k; exact h.takeReference ‹_›

theorem bindRaster (h : Kept s t) (e : Fin 8) (p : Nat) (i : Fin 2) : Kept s (t.bindRaster e p i) :=
  (h.setRvSome i (by simp)).bind _ _

theorem endViewWait (h : Kept s t) (e : Fin 8) : Kept s (t.endViewWait e) := by
  unfold State.endViewWait
  split
  · split
    · exact h.endError _ _ (by simp [PathUnit.accessWaits, *])
    · exact h
  · exact h

theorem unbindRaster (h : Kept s t) (e : Fin 8) (i : Fin 2) (v : ViewContext) :
    Kept s (t.unbindRaster e i v) := (((h.bind _ _).endViewWait _).setRvNone _).dropReference _

theorem restartView (h : Kept s t) (i : Fin 2) : Kept s (t.restartView i) := by
  unfold State.restartView
  split
  · exact (h.setRvNone _).dropReference _
  · exact h

end Sys2Proof.Machine.Kept
end

