-- ==== Sys2Proof/Laws/KeptEngine.lean ====
section
/-! SUPPORT. What the operations of Machine/Engine.lean keep (Laws/Kept.lean). -/

-- One thread: the package as one text is checked under a memory limit, and each thread counts.
set_option Elab.async false

namespace Sys2Proof.Machine.Kept

variable {s t u : State}

theorem turnAfter (h : Kept s t) (k : Fin 7) (c : Ctx) : Kept s (t.turnAfter k c) := by
  unfold State.turnAfter
  repeat' first
    | with_reducible exact h
    | with_reducible exact id
    | with_reducible rfl
    | with_reducible assumption
    | with_reducible apply engineSame

theorem grant (h : Kept s t) (wanted : Ctx → Bool) {act : State → Ctx → State}
    (ha : ∀ c, Kept s (act t c)) : Kept s (t.grant wanted act) := by
  unfold State.grant
  split
  · split
    · exact engineSame (ha _) rfl rfl
    · exact h
  · exact h

theorem grantSc (h : Kept s t) (sheet : Bool) : Kept s (t.grantSc sheet) :=
  h.grant _ (fun _ => h.scGrant _)

theorem grantCp (h : Kept s t) : Kept s t.grantCp :=
  h.grant _ (fun c => by cases c <;> first | exact h | exact h.cpGrant _)

theorem grantRv (h : Kept s t) : Kept s t.grantRv :=
  h.grant _ (fun c => by cases c <;> first | exact h | exact h.rvGrant _)

theorem grantPr (h : Kept s t) : Kept s t.grantPr := h.grant _ (fun _ => h.prGrant)

theorem grantSend (h : Kept s t) : Kept s t.grantSend :=
  h.grant _ (fun c => by cases c <;> first | exact h | exact h.lnSendGrant _)

theorem grantReceive (h : Kept s t) : Kept s t.grantReceive :=
  h.grant _ (fun c => by cases c <;> first | exact h | exact h.lnReceiveGrant _)

end Sys2Proof.Machine.Kept
end

