-- ==== Sys2Proof/Laws/KeptRequests.lean ====
section
/-! SUPPORT. What the operations of Machine/Requests.lean keep (Laws/Kept.lean). -/

-- One thread: the package as one text is checked under a memory limit, and each thread counts.
set_option Elab.async false

namespace Sys2Proof.Machine.Kept

variable {s t u : State}

theorem onRequest (h : Kept s t) (k : RequestKind) {act : State → State}
    (ha : ∀ u, Kept s u → Kept s (act u)) : Kept s (t.onRequest k act) := by
  unfold State.onRequest
  split
  · exact ha _ (h.readRecord _)
  · exact h

theorem reply (h : Kept s t) (k : RequestKind) (r : Result) (v1 v2 : Option Nat) :
    Kept s (t.reply k r v1 v2) := h.answer _ _ _ _

theorem reqScan (h : Kept s t) (sheet : Bool) : Kept s (t.reqScan sheet) := by
  unfold State.reqScan
  split
  · exact (h.beginScan _ _ _).reply _ _ _ _
  · exact h.reply _ _ _ _

theorem reqStopScan (h : Kept s t) : Kept s (t.reqStopScan) := by
  unfold State.reqStopScan
  repeat' first
    | with_reducible exact h
    | with_reducible apply reply
    | with_reducible apply endScanDropping
    | split

theorem reqOpenCompose (h : Kept s t) : Kept s t.reqOpenCompose := by
  unfold State.reqOpenCompose
  split
  · exact h.reply _ _ _ _
  · split
    · exact h.reply _ _ _ _
    · split
      · exact h.reply _ _ _ _
      · exact ((h.createPage ‹_›).openCompose _ _ _).reply _ _ _ _

theorem composeOf_compose {t : State} {e : Fin 8} {i : Fin 2} {c : ComposeContext}
    (h : t.composeOf e = some (i, c)) : t.compose i = some c := by
  unfold State.composeOf at h
  split at h
  · simp at h
    obtain ⟨h1, h2⟩ := h
    exact h2 ▸ h1
  · cases h

theorem pushNow (h : Kept s t) (i : Fin 2) (c : ComposeContext) (hc : t.compose i = some c)
    (hs : c.current.isNone = true ∨ c.hasSlot = true) : Kept s (t.pushNow i c) := by
  unfold State.pushNow
  with_reducible apply reply
  exact h.setCpSome i (fun k => close_queue hs ((h.sound k).composeQueues _ _ hc))

theorem pushOn (h : Kept s t) (e : Fin 8) (i : Fin 2) (c : ComposeContext)
    (hc : t.compose i = some c) : Kept s (t.pushOn e i c) := by
  unfold State.pushOn
  split
  · exact h.reply _ _ _ _
  · split
    · rename_i hs
      exact h.pushNow i c hc (by simpa using hs)
    · exact h.request rfl rfl rfl rfl rfl

theorem composeArgument_compose {t : State} {e : Fin 8} {i : Fin 2} {c : ComposeContext}
    (h : t.composeArgument = .ok (e, i, c)) : t.compose i = some c := by
  unfold State.composeArgument at h
  split at h
  · cases h
  · split at h
    · cases h
    · cases h; exact composeOf_compose ‹_›

theorem reqPush (h : Kept s t) : Kept s t.reqPush := by
  unfold State.reqPush
  split
  · exact h.reply _ _ _ _
  · exact h.pushOn _ _ _ (composeArgument_compose ‹_›)

theorem pushResume (h : Kept s t) : Kept s t.pushResume := by
  unfold State.pushResume
  split
  · split
    · exact h.pushOn _ _ _ (composeOf_compose ‹_›)
    · exact h
  · exact h

theorem sealOn (h : Kept s t) (e : Fin 8) (i : Fin 2) : Kept s (t.sealOn e i) := by
  unfold State.sealOn
  dsimp only
  split
  · split
    · exact ((h.closeForSeal _).sealCompose _ _ _).reply _ _ _ _
    · exact (h.closeForSeal _).request rfl rfl rfl rfl rfl
  · exact h.closeForSeal _

theorem reqSeal (h : Kept s t) : Kept s t.reqSeal := by
  unfold State.reqSeal
  split
  · exact h.reply _ _ _ _
  · exact (h.closeWindow _ _ _ (composeArgument_compose ‹_›)).sealOn _ _

theorem sealResume (h : Kept s t) : Kept s (t.sealResume) := by
  unfold State.sealResume
  repeat' first
    | with_reducible exact h
    | with_reducible apply sealOn
    | split

theorem reqBind (h : Kept s t) : Kept s t.reqBind := by
  unfold State.reqBind
  split
  · exact h.reply _ _ _ _
  · split
    · exact h.reply _ _ _ _
    · exact ((h.bindRasterCheck ‹_›).bindRaster _ _ _).reply _ _ _ _

theorem reqUnbind (h : Kept s t) : Kept s (t.reqUnbind) := by
  unfold State.reqUnbind
  dsimp only
  repeat' first
    | with_reducible exact h
    | with_reducible apply reply
    | with_reducible apply unbindCompose
    | with_reducible apply unbindRaster
    | split

theorem reqRelease (h : Kept s t) : Kept s (t.reqRelease) := by
  unfold State.reqRelease
  dsimp only
  repeat' first
    | with_reducible exact h
    | with_reducible apply reply
    | with_reducible apply dropOwner
    | split

theorem reqSubmit (h : Kept s t) : Kept s (t.reqSubmit) := by
  unfold State.reqSubmit
  dsimp only
  repeat' first
    | with_reducible exact h
    | with_reducible apply submit
    | with_reducible apply reply
    | split

theorem reqCancel (h : Kept s t) : Kept s (t.reqCancel) := by
  unfold State.reqCancel
  dsimp only
  repeat' first
    | with_reducible exact h
    | with_reducible apply cancelJob
    | with_reducible apply reply
    | with_reducible apply clearOrder
    | with_reducible apply finishLines
    | with_reducible assumption
    | with_reducible refine foldl ?_ (fun _ _ k => ?_) _
    | split

theorem reqPrint (h : Kept s t) : Kept s (t.reqPrint) := by
  unfold State.reqPrint
  dsimp only
  repeat' first
    | with_reducible exact h
    | with_reducible apply reply
    | with_reducible refine takeReference ?_ (by assumption)
    | with_reducible apply enterQueue
    | with_reducible apply takeHead
    | split

theorem reqCancelPrint (h : Kept s t) : Kept s (t.reqCancelPrint) := by
  unfold State.reqCancelPrint
  dsimp only
  repeat' first
    | with_reducible exact h
    | with_reducible apply reply
    | with_reducible apply cancelItem
    | split

theorem reqSettle (h : Kept s t) : Kept s (t.reqSettle) := by
  unfold State.reqSettle
  dsimp only
  repeat' first
    | with_reducible exact h
    | with_reducible exact id
    | with_reducible rfl
    | with_reducible assumption
    | with_reducible apply reply
    | with_reducible apply settleDesk
    | with_reducible apply finishLines
    | split
    | with_reducible apply dispatcher

theorem reqAbort (h : Kept s t) : Kept s (t.reqAbort) := by
  unfold State.reqAbort
  repeat' first
    | with_reducible exact h
    | with_reducible apply reply
    | with_reducible apply abort
    | with_reducible apply finishLines
    | split

theorem reqUnknown (h : Kept s t) : Kept s (t.reqUnknown) := by
  unfold State.reqUnknown
  repeat' first
    | with_reducible exact h
    | with_reducible apply answer
    | with_reducible apply readRecord
    | split

end Sys2Proof.Machine.Kept
end

