-- ==== Sys2Proof/Laws/KeptLook.lean ====
section
/-! SUPPORT. What the operations of Machine/Look.lean keep (Laws/Kept.lean). -/

-- One thread: the package as one text is checked under a memory limit, and each thread counts.
set_option Elab.async false

namespace Sys2Proof.Machine.Kept

variable {s t u : State}

theorem handOut (h : Kept s t) (l : LineNo) (j d : Nat) : Kept s (t.handOut l j d) := by
  unfold State.handOut
  repeat' first
    | with_reducible exact h
    | with_reducible apply seize
    | with_reducible apply setDestination

theorem readJobs (h : Kept s t) : Kept s t.readJobs := by
  unfold State.readJobs
  split
  · exact h
  · exact h.readRecord _

theorem choices (h : Kept s t) (n : Nat) : Kept s (t.choices n) := by
  induction n generalizing t with
  | zero => exact h
  | succ n ih =>
    unfold State.choices
    split
    · exact ih (h.readJobs.handOut _ _ _)
    · exact h.readJobs

theorem look (h : Kept s t) : Kept s t.look := by
  unfold State.look
  split
  · with_reducible apply finishLines
    with_reducible apply choices
    exact h.dispatcher rfl
  · exact h

end Sys2Proof.Machine.Kept
end

