-- ==== Sys2Proof/Laws/KeptSteps.lean ====
section
/-! SUPPORT. What each of the part's own steps keeps (Laws/Kept.lean). -/

-- One thread: the package as one text is checked under a memory limit, and each thread counts.
set_option Elab.async false

namespace Sys2Proof.Machine.Kept

variable {s t u : State}

/-- The commands that are the part's own steps, but for STARTED and the tick of the clocks. -/
theorem act (h : Kept s t) (c : Instr) (h1 : c ≠ .started) (h2 : c ≠ .tenthTick) :
    Kept s (t.act c) := by
  cases c with
  | started => exact absurd rfl h1
  | tenthTick => exact absurd rfl h2
  | scanDocument sheet => exact h.onRequest _ (fun _ k => k.reqScan sheet)
  | stopScan => exact h.onRequest _ (fun _ k => k.reqStopScan)
  | openCompose => exact h.onRequest _ (fun _ k => k.reqOpenCompose)
  | pushCompose => exact h.onRequest _ (fun _ k => k.reqPush)
  | pushComposeResume => exact h.pushResume
  | sealCompose => exact h.onRequest _ (fun _ k => k.reqSeal)
  | sealComposeResume => exact h.sealResume
  | bindRaster => exact h.onRequest _ (fun _ k => k.reqBind)
  | unbind => exact h.onRequest _ (fun _ k => k.reqUnbind)
  | releasePage => exact h.onRequest _ (fun _ k => k.reqRelease)
  | submitSend => exact h.onRequest _ (fun _ k => k.reqSubmit)
  | cancelSend => exact h.onRequest _ (fun _ k => k.reqCancel)
  | printPage => exact h.onRequest _ (fun _ k => k.reqPrint)
  | cancelPrint => exact h.onRequest _ (fun _ k => k.reqCancelPrint)
  | settleDesk => exact h.onRequest _ (fun _ k => k.reqSettle)
  | abortLine => exact h.onRequest _ (fun _ k => k.reqAbort)
  | unknownRequest => exact h.reqUnknown
  | scGrant sheet => exact h.grantSc _
  | cpGrant => exact h.grantCp
  | rvGrant => exact h.grantRv
  | prGrant => exact h.grantPr
  | lnSendGrant => exact h.grantSend
  | lnReceiveGrant => exact h.grantReceive
  | feedStep edge => exact h.feedStep _
  | feedCountExpiry => exact h.feedExpired
  | scanLineStep => exact h.scanLineStep _ _ _ _
  | storeWaitExpiry => exact h.storeWaitExpired
  | look => exact h.look
  | dialTone l => exact (h.dialTone l).finishLines
  | dialToneTimeout l => exact (h.timeoutEnds l _ _).finishLines
  | blindWaitExpiry l =>
    simp only [State.act]; split
    · exact (h.beginDialling l).finishLines
    · exact h.finishLines
  | digitSent l =>
    simp only [State.act]; split
    · exact (h.nibbleDone l).finishLines
    · exact h.finishLines
  | digitSentTimeout l => exact (h.timeoutEnds l _ _).finishLines
  | pauseExpiry l =>
    simp only [State.act]; split
    · exact (h.nibbleDone l).finishLines
    · exact h.finishLines
  | pulseBreakExpiry l => exact (h.breakDone l).finishLines
  | pulseMakeExpiry l current => exact (h.makeDone l _).finishLines
  | interdigitExpiry l =>
    simp only [State.act]; split
    · exact (h.nibbleDone l).finishLines
    · exact h.finishLines
  | busyTone l => exact (h.busyTone l).finishLines
  | answerTone l => exact (h.answerTone l).finishLines
  | answerTimeout l => exact (h.timeoutEnds l _ _).finishLines
  | reversal l => exact (h.reversal l).finishLines
  | meter l => exact (h.meterPulse l).finishLines
  | ringStart l => exact (h.ringStart l).finishLines
  | ringEnd l => exact (h.ringEnd l).finishLines
  | ringGapExpiry l => exact (h.ringGap l).finishLines
  | loopSettleExpiry l current => exact (h.settled l _).finishLines
  | loopLost l => exact (h.loopLoss l).finishLines
  | farewellTimeout l =>
    simp only [State.act]; split
    · exact (h.hookOn l).finishLines
    · exact h.finishLines
  | restExpiry l => exact (h.restDone l).finishLines
  | frameSent l => exact (h.frameSent l).finishLines
  | checkSent l => exact (h.checkSent l).finishLines
  | checkGood l => exact (h.checkGood l).finishLines
  | checkBad l => exact (h.checkBad l).finishLines
  | tonePlayed l => exact (h.tonePlayed l).finishLines
  | tonePlayedTimeout l => exact (h.timeoutEnds l _ _).finishLines
  | parcelTaken l => exact (h.parcelTaken l).finishLines
  | parcelIn l bytes => exact (h.parcelIn l _).finishLines
  | carrierLost l => exact (h.carrierLost l).finishLines
  | offer l body => exact (h.frameIn l _).finishLines
  | choice l body => exact (h.frameIn l _).finishLines
  | ready l body => exact (h.frameIn l _).finishLines
  | rateDown l body => exact (h.frameIn l _).finishLines
  | pageEnd l body => exact (h.frameIn l _).finishLines
  | verdict l body => exact (h.frameIn l _).finishLines
  | farewell l body => exact (h.frameIn l _).finishLines
  | frameWaitExpiry l => exact (h.frameWaitExpired l).finishLines
  | pageGapExpiry l => exact (h.gapExpired l).finishLines
  | verdictDecide l => exact (h.decideVerdict l).finishLines
  | unitExpiry l => exact (h.expireUnit l).finishLines
  | printLineDone => exact h.lineDone
  | cutDone => exact h.cutComplete
  | cutTimeout => exact h.cutComplete
  | paperLoss => exact h.losePaper
  | paperReturn => exact h.returnPaper
  | instructionFetch | plainWrite | postedSlotTaken | plainRead | postedWriteDrain | cycleGranted
  | holdLimitExpiry | lockedSequenceEnd | regionRead | regionWrite | startFresh | startKeep
  | statusFlagsWrite | interruptEnableWrite | postIndexWrite | noticeConsumeIndexWrite
  | clockSetTenthsWrite | holdLimitWrite | receiveReserveWrite | poorThresholdWrite | autoPrintWrite
  | incomingReserveWrite
  | pathFaultCauseWrite | apertureEntryWrite | lineConfigWrite | composeWrite | composeWriteResume
  | composeRead | rasterRead | rasterReadComplete | rasterWrite | digitsWrite | digitsRead
  | pinReset => exact h

/-- STARTED changes the path state and nothing else that a step of the part keeps. -/
theorem startDone_sound {s : State} (i : s.Sound) : s.startDone.Sound := by
  unfold State.startDone
  split
  · dsimp only
    refine ((refl _).readPaper).sound ?_
    have k := ((refl s).raise { kind := .started, subject := noSubject
                                value1 := some (s.request.pagesKept + 65536 * s.request.pagesDiscarded)
                                value2 := some (s.request.jobsKept + 65536 * s.request.jobsCancelled) })
    have j := k.sound i
    exact { j with
      memory := Memory.wf_write j.memory _ _
      hold := fun e => ⟨(j.hold e).1, by simp [State.enterPath]⟩ }
  · exact i

/-- The tick of the clocks keeps the Time of Day in range. -/
theorem tick_sound {s : State} (i : s.Sound) : s.tick.Sound := by
  have j : ({ s with time := s.time.ticked } : State).Sound :=
    { i with
      weekday := by
        have := i.weekday
        simp only [TimeBase.ticked]
        split
        · exact this
        · split <;> omega
      tenths := by
        simp only [TimeBase.ticked]
        split <;> omega }
  unfold State.tick
  dsimp only
  split
  · exact { j with }
  · exact j

/-- Every step of the part's own leads from a sound state to a sound state. -/
theorem act_sound {s : State} (i : s.Sound) (c : Instr) : (s.act c).Sound := by
  by_cases h1 : c = .started
  · subst h1; exact startDone_sound i
  · by_cases h2 : c = .tenthTick
    · subst h2; exact tick_sound i
    · exact ((refl s).act c h1 h2).sound i

end Sys2Proof.Machine.Kept
end

