-- ==== Sys2Proof/Laws/Lines.lean ====
section
/-! SUPPORT. What a step of a Line Channel comes to while no LOCKED sequence holds it back and no clear
order waits: the lemmas with which an exact next state is computed. -/

-- One thread: the package as one text is checked under a memory limit, and each thread counts.
set_option Elab.async false

namespace Sys2Proof.Machine

variable {s t : State} {l : LineNo}

@[simp] theorem State.line_setLn (s : State) (l k : LineNo) (c : Option LineContext) :
    (s.setLn l c).line k = s.line k := rfl

@[simp] theorem State.lnContext_setLine (s : State) (l k : LineNo) (x : LineChannel) :
    (s.setLine l x).lnContext k = s.lnContext k := rfl

/-- Replacing a line and replacing an LN context commute. -/
theorem State.setLine_setLn (s : State) (l k : LineNo) (x : LineChannel) (c : Option LineContext) :
    (s.setLn k c).setLine l x = (s.setLine l x).setLn k c := rfl

@[simp] theorem State.setLn_setLn (s : State) (l : LineNo) (c d : Option LineContext) :
    (s.setLn l c).setLn l d = s.setLn l d := by simp [State.setLn]

/-- With no clear order waiting none is taken. -/
theorem State.takeOrders_nil : ∀ (n : Nat) (s : State), s.charge.orders = [] → s.takeOrders n = s
  | 0, _, _ => rfl
  | n + 1, s, h => by simp [State.takeOrders, h]

/-- With no clear order waiting a line step ends with the Line Records brought up to date. -/
theorem State.finishLines_nil (h : s.charge.orders = []) : s.finishLines = s.syncLines := by
  rw [State.finishLines, State.takeOrders_nil _ _ h]

/-- A timer runs for a purpose just when the line's timer has that kind. -/
theorem State.timerIs_iff {k : TimerKind} :
    s.timerIs l k = true ↔ ∃ ms, (s.line l).timer = some { kind := k, ms := ms } := by
  unfold State.timerIs
  cases h : (s.line l).timer with
  | none => simp
  | some t => cases t; simp

end Sys2Proof.Machine
end

