-- ==== Sys2Proof/Laws/Path.lean ====
section
/-! SUPPORT. The memory path: what draining, classifying and presenting a cycle come to. -/

-- One thread: the package as one text is checked under a memory limit, and each thread counts.
set_option Elab.async false

namespace Sys2Proof.Machine

/-! ### The Posted Write Queue -/

theorem State.drainOne_cons {s : State} {w : Posted} {rest : List Posted} (h : s.path.queue = w :: rest) :
    s.drainOne = { s with memory := s.memory.writeWord w.addr w.data w.be,
                          path := { s.path with queue := rest } } := by
  simp [State.drainOne, h]

/-- n entries drained: the first n writes of the queue performed in their order (R8). -/
theorem State.drainN_eq (n : Nat) (s : State) :
    State.drainN n s = { s with memory := s.memory.posted (s.path.queue.take n),
                                path := { s.path with queue := s.path.queue.drop n } } := by
  induction n generalizing s with
  | zero => simp [State.drainN, Memory.posted]
  | succ n ih =>
    rw [State.drainN]
    cases h : s.path.queue with
    | nil => rw [ih]; simp [State.drainOne, h, Memory.posted]
    | cons w rest => rw [ih, State.drainOne_cons h]; simp [Memory.posted]

/-- The whole queue drained (R10). -/
theorem State.drainAll_eq (s : State) :
    s.drainAll = { s with memory := s.memory.posted s.path.queue, path := { s.path with queue := [] } } := by
  simp [State.drainAll, State.drainN_eq]

theorem Memory.wf_posted {m : Memory} (h : m.wf) (q : List Posted) : (m.posted q).wf := by
  induction q generalizing m with
  | nil => exact h
  | cons w q ih => exact ih (Memory.wf_writeWord h _ _ _)

/-! ### The class of a cycle -/

theorem State.classify_fetch {s : State} {c : Cycle} (h : c.program = true) (hw : c.write = false) :
    s.classify c = .fetch := by simp [State.classify, h, hw]

theorem State.classify_region {s : State} {c : Cycle} (h : (c.program && !c.write) = false)
    (hr : s.inRegion c.addr = true) : s.classify c = .region := by simp [State.classify, h, hr]

theorem State.governing_none {s : State} {addr : Nat}
    (h : ∀ e : Fin 8, (s.aperture e).covers addr = false) : s.governing addr = none := by
  simp only [State.governing, List.find?_eq_none]
  intro e _
  simp [h e]

theorem State.governing_some {s : State} {e : Fin 8} {addr : Nat} (h : s.governs e addr) :
    s.governing addr = some e := by
  obtain ⟨-, h1, h2⟩ := h
  simp only [State.governing, List.find?_eq_some_iff_append]
  refine ⟨h1, ?_⟩
  match e, h2 with
  | 0, h2 => exact ⟨[], [1, 2, 3, 4, 5, 6, 7], rfl, by simp⟩
  | 1, h2 => exact ⟨[0], [2, 3, 4, 5, 6, 7], rfl, by simp [h2]⟩
  | 2, h2 => exact ⟨[0, 1], [3, 4, 5, 6, 7], rfl, by simp [h2]⟩
  | 3, h2 => exact ⟨[0, 1, 2], [4, 5, 6, 7], rfl, by simp [h2]⟩
  | 4, h2 => exact ⟨[0, 1, 2, 3], [5, 6, 7], rfl, by simp [h2]⟩
  | 5, h2 => exact ⟨[0, 1, 2, 3, 4], [6, 7], rfl, by simp [h2]⟩
  | 6, h2 => exact ⟨[0, 1, 2, 3, 4, 5], [7], rfl, by simp [h2]⟩
  | 7, h2 => exact ⟨[0, 1, 2, 3, 4, 5, 6], [], rfl, by simp [h2]⟩

theorem State.classify_aperture {s : State} {c : Cycle} {e : Fin 8}
    (h : (c.program && !c.write) = false) (hg : s.governs e c.addr) : s.classify c = .aperture e := by
  simp [State.classify, h, hg.1, State.governing_some hg]

theorem State.classify_plain {s : State} {c : Cycle} (h : (c.program && !c.write) = false)
    (hr : s.inRegion c.addr = false) (hi : c.addr < s.installed)
    (ha : ∀ e : Fin 8, (s.aperture e).covers c.addr = false) : s.classify c = .plain := by
  simp [State.classify, h, hr, State.governing_none ha, hi]

/-! ### The end of a LOCKED sequence (R12, R13) -/

@[simp] theorem State.endSequence_hold (s : State) : s.endSequence.path.hold = s.path.hold := rfl

/-- Where no sequence is open, none is ended. -/
theorem State.endSequence_closed {s : State} (h : s.path.sequence = false) : s.endSequence = s := by
  unfold State.endSequence
  rw [← h]

/-- Where nothing is held back, nothing is released. -/
@[simp] theorem State.endHold_free {s : State} (h : s.path.hold = false) : s.endHold = s := by
  simp [State.endHold, h]

/-- What is held back waits for the end of its sequence and for every access of the first class. -/
theorem State.endHold_waits {s : State}
    (h : s.path.sequence = true ∨ s.path.firstClassWaits = true) : s.endHold = s := by
  rcases h with h | h <;> simp [State.endHold, h]

/-- Otherwise it is released. -/
theorem State.endHold_released {s : State} (h : s.path.hold = true) (hs : s.path.sequence = false)
    (hw : s.path.firstClassWaits = false) : s.endHold = s.releaseHold := by
  simp [State.endHold, h, hs, hw]

/-! ### Presenting an unlocked cycle at a free port -/

/-- An unlocked cycle at a free port is classified, checked and carried out (R2). -/
theorem State.present_free {s : State} {c : Cycle} {stretched : Bool} (h : s.PortFree)
    (hl : c.locked = false) :
    s.present c stretched =
      (match s.checks c (s.classify c) with
      | some cause => (s.drainRefused c (s.classify c)).endError c cause
      | none => s.carryOut c (s.classify c) stretched).endHold := by
  simp only [State.present, h.waiting, hl, State.endSequence_closed h.sequence, Option.isSome_none,
    Bool.false_eq_true, ↓reduceIte] <;>
  cases s.checks c (s.classify c) <;> rfl

/-- A plain access at a free port (R4). -/
theorem State.present_plain {s : State} {c : Cycle} {stretched : Bool} (h : s.PortFree)
    (hl : c.locked = false) (hp : (c.program && !c.write) = false) (ha : s.plainAt c.addr c.write) :
    ∃ cls, (cls = .plain ∨ cls = .region ∧ s.plainRegion c = true) ∧
      s.present c stretched = (s.plainCycle c cls stretched).endHold := by
  rw [State.present_free h hl]
  rcases ha with ⟨hr, hpass, hw⟩ | ⟨hr, hi, hn⟩
  · have hs : s.isStartWrite c = false := by
      cases hc : c.write
      · simp [State.isStartWrite, hc]
      · simpa [State.isStartWrite, hc, Config.startWord] using hw hc
    have hplain : s.plainRegion c = true := by simp [State.plainRegion, hpass, hs]
    refine ⟨.region, .inr ⟨rfl, hplain⟩, ?_⟩
    rw [State.classify_region hp hr]
    simp [State.checks, hpass, State.carryOut, hplain]
  · refine ⟨.plain, .inl rfl, ?_⟩
    rw [State.classify_plain hp hr hi hn]
    simp [State.checks, State.carryOut]

/-- A cycle under the region's rules at a free port (R11): refused after the drain, or granted. -/
theorem State.present_region {s : State} {c : Cycle} {stretched : Bool} (h : s.PortFree)
    (hl : c.locked = false) (hp : (c.program && !c.write) = false) (hr : s.regionAt c.addr) :
    s.present c stretched =
      (if c.write && s.protectedWrite c then s.drainAll.endError c .protection
      else if stretched then s.wait c (.access .region) else s.grantRegion c).endHold := by
  obtain ⟨hr, hs⟩ := hr
  rw [State.present_free h hl, State.classify_region hp hr]
  have hn : s.plainRegion c = false := by simp [State.plainRegion, hs]
  have hb : (s.path.state != PathState.pass) = true := by simpa using hs
  cases hc : c.write && s.protectedWrite c
  · have : s.checks c .region = none := by simp [State.checks, hb, hc]
    rw [this]
    cases stretched <;> simp [State.carryOut, hn, State.accessOr, State.access]
  · have : s.checks c .region = some .protection := by simp [State.checks, hb, hc]
    rw [this]
    simp [State.drainRefused]

/-- A word of the region at a multiple of four from its start lies in the region. -/
theorem State.inRegion_offset {s : State} {off : Nat} (h : off < 0x40000) :
    s.inRegion (s.regionBase + off) = true := by
  have h1 : 0x40000 ≤ s.installed := by
    unfold State.installed
    cases s.path.size <;> decide
  have h2 : s.regionBase + 0x40000 = s.installed := Nat.sub_add_cancel h1
  unfold State.inRegion
  rw [decide_eq_true (Nat.le_add_right _ _), decide_eq_true (by omega)]
  rfl

/-- An observed word written at a free port (R11, R21). -/
theorem State.present_observed {s : State} {off : Nat} {data : Word} {be : Enables} {program : Bool}
    {a : Attr} (h : s.Accepts be a) (ho : off < 0x40000)
    (hp : s.protectedWrite (writeCycle (s.regionBase + off) data be program a) = false) :
    s.present (writeCycle (s.regionBase + off) data be program a) a.stretched
      = (({ s with memory := (s.memory.posted s.path.queue).writeWord (s.regionBase + off) data be,
                   path := { s.path with queue := [] } }.observed off).endCycle none).endHold := by
  have e : (writeCycle (s.regionBase + off) data be program a).addr = s.regionBase + off := rfl
  have hr : s.regionAt (writeCycle (s.regionBase + off) data be program a).addr := by
    rw [e]
    exact ⟨State.inRegion_offset ho, h.state⟩
  rw [State.present_region h.free (by simp [writeCycle, h.locked]) (by simp [writeCycle]) hr, hp]
  have hh : s.path.hold = false := h.free.hold
  have hb : be ≠ 0#4 := h.be
  simp [h.stretched, State.grantRegion, State.hostWrite, State.drainAll_eq, writeCycle, hh, hb]

end Sys2Proof.Machine
end

