-- ==== Sys2Proof/Tests/Slice0.lean ====
section
/-! SUPPORT. Tests: the check of well-formedness on ill-formed terms, one small test for most commands
with values worked out from the manual's text, and for every statement with hypotheses a state and
operands that meet them (`witness_…`). -/

-- One thread: the package as one text is checked under a memory limit, and each thread counts.
set_option Elab.async false

namespace Sys2Proof.Tests

open Sys2Proof.Machine

/-! ### Small states and how they are looked at -/

/-- An unlocked SUPERVISOR cycle that is not stretched. -/
def sup : Attr := { user := false, locked := false, stretched := false }

/-- An unlocked USER cycle. -/
def usr : Attr := { user := true, locked := false, stretched := false }

/-- Pieces of the Controller Region of an 8 MiB part. -/
def region (pieces : List (Nat × List Byte)) : Memory :=
  pieces.foldl (fun m p => m.write (0x7C0000 + p.1) p.2) []

/-- A RUNNING part with the given memory. -/
def running (m : Memory) : State :=
  { State.reset with
    memory := m
    path := { State.reset.path with state := .running }
    store := { State.reset.store with taking := true } }

/-- The part in PASS with line 0 as given. -/
def online (x : LineChannel) : State := State.reset.setLine 0 x

/-- A RUNNING part whose next request entry has a kind and arguments. -/
def asked (kind : Nat) (args : List Nat) (pieces : List (Nat × List Byte)) : State :=
  let s := running (region ([(0x400, leBytes 2 kind ++ [0x12, 0x34]),
    (0x404, args.flatMap (leBytes 4))] ++ pieces))
  { s with request := { s.request with post := 1 } }

/-- The outcome is a next state that has a property. -/
def holds (o : Host.Outcome State Fault Refusal) (p : State → Bool) : Bool :=
  match o with
  | .next t => p t
  | _ => false

/-- A state with one entry of the Aperture Table copy. -/
def withEntry (s : State) (x : Aperture) : State :=
  { s with path := { s.path with copy := s.path.copy.set 0 x } }

/-- A state with posted writes. -/
def withQueue (s : State) (n : Nat) : State :=
  { s with path := { s.path with queue := List.replicate n { addr := 0x100, data := 7, be := 0xF } } }

/-- A state in which a cycle waits. -/
def withWaiting (s : State) (c : Cycle) (w : WaitFor) : State :=
  { s with path := { s.path with waiting := some { cycle := c, why := w } } }

/-- A plain write cycle at 0x200. -/
def aCycle : Cycle := writeCycle 0x200 5 0xF false sup

/-! ### The smoke test of well-formedness: an ill-formed term for each check -/

theorem test_fetch_unaligned : (Instr.instructionFetch 2 0xF sup).wellFormed = false := by decide
theorem test_plain_write_unaligned : (Instr.plainWrite 1 0 0xF false sup).wellFormed = false := by decide
theorem test_plain_read_unaligned : (Instr.plainRead 3 0xF sup).wellFormed = false := by decide
theorem test_region_read_unaligned : (Instr.regionRead 2 0xF sup).wellFormed = false := by decide
theorem test_region_write_unaligned : (Instr.regionWrite 1 0 0xF false sup).wellFormed = false := by decide
theorem test_compose_write_unaligned : (Instr.composeWrite 2 0 0xF false sup).wellFormed = false := by decide
theorem test_compose_read_unaligned : (Instr.composeRead 2 0xF sup).wellFormed = false := by decide
theorem test_raster_read_unaligned : (Instr.rasterRead 1 0xF sup).wellFormed = false := by decide
theorem test_raster_write_unaligned : (Instr.rasterWrite 2 0 0xF false sup).wellFormed = false := by decide
theorem test_digits_write_unaligned : (Instr.digitsWrite 3 0 0xF false sup).wellFormed = false := by decide
theorem test_digits_read_unaligned : (Instr.digitsRead 2 0xF sup).wellFormed = false := by decide
theorem test_scan_line_short : (Instr.scanLineStep true true [0] [0]).wellFormed = false := by decide
theorem test_parcel_long : (Instr.parcelIn 0 (List.replicate 1033 0)).wellFormed = false := by decide +kernel
theorem test_offer_long : (Instr.offer 0 (List.replicate 17 0)).wellFormed = false := by decide
theorem test_choice_long : (Instr.choice 0 (List.replicate 17 0)).wellFormed = false := by decide
theorem test_ready_long : (Instr.ready 0 (List.replicate 17 0)).wellFormed = false := by decide
theorem test_rate_down_long : (Instr.rateDown 0 (List.replicate 17 0)).wellFormed = false := by decide
theorem test_page_end_long : (Instr.pageEnd 0 (List.replicate 17 0)).wellFormed = false := by decide
theorem test_verdict_long : (Instr.verdict 0 (List.replicate 17 0)).wellFormed = false := by decide
theorem test_farewell_long : (Instr.farewell 0 (List.replicate 17 0)).wellFormed = false := by decide

/-- The table has no bits, so no word spells a command (log 13). -/
theorem test_decode_none : decodeTableWord 32 1 = none := rfl

/-! ### The machine as a whole -/

/-- On an empty queue the block idles (log 1). -/
theorem test_step_idles : step State.reset = .next State.reset := rfl

/-- The front command runs and the rest of the queue stays (log 1). -/
theorem test_step_front :
    holds (step (State.reset.withPending [.tenthTick, .look])) (fun t => t.time.runClock == 1 && t.pending == [.look])
      = true := by decide +kernel

/-- A small sound state other than the reset state. -/
theorem sound_ticking : (State.reset.withPending [.tenthTick]).Sound where
  memory := by decide
  queue := by decide
  holdLimit := by decide
  receiveReserve := by decide
  poorThreshold := by decide
  incomingReserve := by decide
  weekday := by decide
  tenths := by decide
  hold := by decide
  held := by decide
  waiting := by decide
  ring := by decide
  feedSteps := by decide
  received := by decide
  composeQueues := by intro i c h; revert i; simp [State.compose, State.withPending, State.reset, Engine.reset]
  caches := by intro i v h; revert i; simp [State.view, State.withPending, State.reset, Engine.reset]

theorem witness_StepKeepsSound : ∃ t, (State.reset.withPending [.tenthTick]).Sound ∧
    step (State.reset.withPending [.tenthTick]) = .next t := ⟨_, sound_ticking, rfl⟩

theorem witness_AddressesAndNumbersStayWhole :
    let s := (withWaiting (withQueue State.reset 1) aCycle .slot).withPending [.plainRead 0x100 0xF sup]
    (∀ w ∈ s.path.queue, w.addr % 4 = 0) ∧ (∀ w, s.path.waiting = some w → w.cycle.addr % 4 = 0) ∧
    (∀ l f, (s.line l).outgoing = some f → f.number.length = 24) ∧
    (∀ c, s.pending.head? = some c → c.wellFormed = true) ∧ ∃ t, step s = .next t := by
  refine ⟨by decide, ?_, ?_, ?_, _, rfl⟩
  · rintro w ⟨⟩; rfl
  · intro l f h
    have : ∀ l : LineNo, (State.reset.line l).outgoing = none := by decide
    exact absurd (h.symm.trans (this l)) (by simp)
  · rintro c ⟨⟩; rfl

theorem witness_OwnStepsChangeNoSetting : ∃ t, ofHost .look = false ∧ Instr.look ≠ .started ∧
    Instr.look ≠ .tenthTick ∧ exec .look State.reset = .next t := ⟨_, rfl, by decide, by decide, rfl⟩

/-- Both halves of the statement at the top of their ranges. -/
theorem witness_ByteEnablesSelectBytes : Memory.wf (region [(0x40, [1])]) ∧ 220 + 4 ≤ 224 ∧ 223 < 224 := by
  decide +kernel

/-! ### Host cycles -/

theorem free_reset : State.reset.PortFree := ⟨rfl, rfl, rfl⟩
theorem free_running (m : Memory) : (running m).PortFree := ⟨rfl, rfl, rfl⟩
theorem free_queue (n : Nat) : (withQueue State.reset n).PortFree := ⟨rfl, rfl, rfl⟩

theorem plain_0 : State.reset.plainAt (0x100 : BitVec 26).toNat true :=
  .inr ⟨by decide +kernel, by decide +kernel, by decide +kernel⟩
theorem plain_read : State.reset.plainAt (0x100 : BitVec 26).toNat false :=
  .inr ⟨by decide +kernel, by decide +kernel, by decide +kernel⟩
theorem plain_queued : (withQueue State.reset 1).plainAt (0x100 : BitVec 26).toNat false :=
  .inr ⟨by decide +kernel, by decide +kernel, by decide +kernel⟩
theorem plain_7 : (withQueue State.reset 7).plainAt (0x100 : BitVec 26).toNat true :=
  .inr ⟨by decide +kernel, by decide +kernel, by decide +kernel⟩
theorem plain_8 : (withQueue State.reset 8).plainAt (0x100 : BitVec 26).toNat true :=
  .inr ⟨by decide +kernel, by decide +kernel, by decide +kernel⟩
theorem region_low : (running []).regionAt (0x7C0000 : BitVec 26).toNat := ⟨by decide +kernel, by decide⟩
theorem region_high : (running []).regionAt (0x7FFFFC : BitVec 26).toNat := ⟨by decide +kernel, by decide⟩

theorem witness_PlainWritesArePosted :
    (withQueue State.reset 7).PortFree ∧ (withQueue State.reset 8).PortFree ∧ sup.locked = false ∧
    (withQueue State.reset 7).plainAt (0x100 : BitVec 26).toNat true ∧
    (withQueue State.reset 8).plainAt (0x100 : BitVec 26).toNat true ∧
    (0xF : Enables) ≠ 0 ∧ (withQueue State.reset 7).path.queue.length < 8 ∧
    8 ≤ (withQueue State.reset 8).path.queue.length ∧
    (withQueue State.reset 1).path.queue = { addr := 0x100, data := 7, be := 0xF } :: [] ∧
    (withWaiting (withQueue State.reset 7) aCycle .slot).path.waiting = some { cycle := aCycle, why := .slot } ∧
    (withWaiting (withQueue State.reset 7) aCycle .slot).path.queue.length < 8 ∧
    8 ≤ (withWaiting (withQueue State.reset 8) aCycle .slot).path.queue.length :=
  ⟨free_queue 7, free_queue 8, rfl, plain_7, plain_8, by decide, by decide, by decide, rfl, rfl,
    by decide, by decide⟩

/-- A plain read that waits for its access behind posted writes. -/
def readWaits (n : Nat) (addr : Nat) : State :=
  withWaiting (withQueue State.reset n) (readCycle addr 0xF false sup) (.access .plain)

/-- No cycle waits; a read of another word waits with the queue full, and with seven entries; a read of the
posted word waits. -/
theorem witness_PlainWritesArePosted_drains :
    (∀ c cls, (withQueue State.reset 1).path.waiting ≠ some { cycle := c, why := .access cls }) ∧
    7 ≤ ((readWaits 8 0x104).path.queue.drop 1).length ∧
    (readWaits 1 0x100).path.waiting = some { cycle := readCycle 0x100 0xF false sup, why := .access .plain } ∧
    (∃ x ∈ (readWaits 1 0x100).path.queue, x.addr = (readCycle 0x100 0xF false sup).addr) ∧
    (readWaits 7 0x104).path.queue.length < 8 ∧ (readCycle 0x104 0xF false sup).write = false ∧
    (readCycle 0x104 0xF false sup).locked = false ∧
    (∀ x ∈ (readWaits 7 0x104).path.queue, x.addr ≠ (readCycle 0x104 0xF false sup).addr) :=
  ⟨fun _ _ h => (nomatch h), by decide, rfl, ⟨_, List.mem_singleton.mpr rfl, rfl⟩, by decide, rfl, rfl, by decide⟩

theorem witness_ReadsSeeEarlierWrites :
    (withQueue State.reset 1).PortFree ∧ sup.locked = false ∧ sup.stretched = false ∧
    (withQueue State.reset 1).plainAt (0x100 : BitVec 26).toNat false ∧
    (0x7FFFFC : BitVec 26).toNat < (withQueue State.reset 1).installed ∧
    (withQueue State.reset 1).memory.wf ∧ (0x100 : BitVec 26).toNat % 4 = 0 ∧
    (∀ w ∈ (withQueue State.reset 1).path.queue, w.addr % 4 = 0) ∧ (0xF : Enables) ≠ 0 :=
  ⟨free_queue 1, rfl, rfl, plain_queued, by decide +kernel, by decide +kernel, by decide +kernel,
    by decide +kernel, by decide⟩

theorem witness_GrantCompletesStretchedCycle :
    State.reset.PortFree ∧ State.reset.plainAt (0x100 : BitVec 26).toNat false ∧
    (running []).PortFree ∧ (running []).regionAt (0x7C0000 : BitVec 26).toNat ∧
    (running []).regionAt (0x7FFFFC : BitVec 26).toNat ∧
    (0x7FFFFC : BitVec 26).toNat < State.reset.installed ∧
    (running []).protectedWrite (writeCycle (0x7FFFFC : BitVec 26).toNat 5 0xF false sup) = false ∧
    ¬ observedOffset ((0x7FFFFC : BitVec 26).toNat - (running []).regionBase) ∧
    (running []).protectedWrite (writeCycle (0x7C0008 : BitVec 26).toNat 5 0xF false sup) = false ∧
    (running []).regionAt (0x7C0008 : BitVec 26).toNat :=
  ⟨free_reset, plain_read, free_running [], region_low, region_high, by decide +kernel, by decide +kernel,
    by unfold observedOffset; decide +kernel, by decide +kernel, by decide +kernel, by decide⟩

/-- A view in RV0 of entry 0. -/
def aView : ViewContext :=
  { entry := 0, dec := { page := 0, next := 0, pos := { leaf := 0, chain := 0, offset := 0 }, reference := 0,
                         errorBelow := 0 },
    cache := [(3, 5)], target := some 3, fetch := none }

/-- A RUNNING part whose RV0 holds a view. -/
def viewing (m : Memory) (v : ViewContext) : State :=
  { running m with engine := { (running m).engine with rv := (running m).engine.rv.set 0 (some v) } }

theorem witness_HoldLimitExpiryEndsNotReady :
    (withWaiting State.reset aCycle .slot).path.waiting = some { cycle := aCycle, why := .slot } ∧
    (∀ e, WaitFor.slot ≠ .view e) ∧
    (withWaiting (viewing [] aView) aCycle (.view 0)).path.waiting
      = some { cycle := aCycle, why := .view 0 } ∧
    (withWaiting (viewing [] aView) aCycle (.view 0)).view 0 = some aView ∧ aView.entry = 0 ∧
    ∀ j w, j < (0 : Fin 2) → (withWaiting (viewing [] aView) aCycle (.view 0)).view j = some w → w.entry ≠ 0 :=
  ⟨rfl, by decide, rfl, rfl, rfl, fun j w h => absurd h (by omega)⟩

/-- A RASTER entry over the first 4096 bytes of host space above DRAM that USER may not use. -/
def rasterEntry : Aperture :=
  { valid := true, kind := .raster, base := 0x1000000, length := 4096, userAllowed := false, stride := 256,
    origin := 0, target := 0, binding := none }

theorem witness_BusErrorsBeforeTheAccess :
    State.reset.PortFree ∧ sup.locked = false ∧ State.reset.installed ≤ (0x800000 : BitVec 26).toNat ∧
    (∀ e : Fin 8, (State.reset.aperture e).covers (0x800000 : BitVec 26).toNat = false) ∧
    (withEntry State.reset rasterEntry).PortFree ∧
    (withEntry State.reset rasterEntry).governs 0 (0x1000FFC : BitVec 26).toNat ∧ usr.user = true ∧
    ((withEntry State.reset rasterEntry).aperture 0).userAllowed = false ∧
    (sup.user = true → ((withEntry State.reset rasterEntry).aperture 0).userAllowed = true) ∧
    ((withEntry State.reset rasterEntry).aperture 0).kind ≠ .digits ∧
    ((withEntry State.reset rasterEntry).aperture 0).binding = none :=
  ⟨free_reset, rfl, by decide +kernel, by decide +kernel, ⟨rfl, rfl, rfl⟩,
    ⟨by decide +kernel, by decide +kernel, by decide +kernel⟩, rfl, by decide +kernel, by decide, by decide +kernel,
    by decide +kernel⟩

/-- A LOCKED sequence that has touched the region is open, on a RUNNING part with line 0 resting. -/
def sequenced : State :=
  let s := (running []).setLine 0 (LineChannel.atRest .empty)
  { s with path := { s.path with sequence := true, hold := true } }

/-- The same with transfers held back. -/
def holding (held : List HeldTransfer) : State :=
  { sequenced with arbiter := { sequenced.arbiter with held := held } }

theorem witness_LockedCyclesAreNotPosted :
    State.reset.path.waiting = none ∧ State.reset.plainAt (0x100 : BitVec 26).toNat true ∧
    (running []).path.waiting = none ∧ (running []).regionAt (0x7C0000 : BitVec 26).toNat ∧
    (withEntry State.reset rasterEntry).path.waiting = none ∧
    (withEntry State.reset rasterEntry).governs 0 (0x1000000 : BitVec 26).toNat ∧
    sequenced.path.waiting = none ∧ sequenced.path.sequence = true ∧ sequenced.arbiter.held = [] ∧
    sequenced.arbiter.hidden = [] ∧ (running []).arbiter.hidden = [] ∧
    (∀ x ∈ (holding [.record .storeUnit]).arbiter.held, ∃ u, x = .record u) ∧ (0xF : Enables) ≠ 0 :=
  ⟨rfl, plain_0, rfl, region_low, rfl,
    ⟨by decide +kernel, by decide +kernel, by decide +kernel⟩, rfl, rfl, rfl, rfl, rfl,
    by intro x h; exact ⟨_, List.mem_singleton.mp h⟩, by decide⟩

/-- A hold; a notice that waits for the end with 127 notices unread and with 128; a flag that waits; a scan at
its feed limit. -/
theorem witness_HeldTransfersArePerformedAtTheEnd :
    let full := fun (n : Index) => { holding [.notice (List.replicate 16 0)] with
      request := { (holding []).request with produce := n } }
    let fed := { sequenced with scan := { sequenced.scan with state := .feeding, feedSteps := 400 } }
    sequenced.path.hold = true ∧ sequenced.path.state ≠ .pass ∧ fed.path.hold = true ∧
    fed.path.state ≠ .pass ∧ fed.scan.state = .feeding ∧ fed.scan.feedSteps = 400 ∧
    (∀ n, (full n).path.waiting = none ∧ (full n).path.sequence = true ∧
      (full n).arbiter.held = [.notice (List.replicate 16 0)]) ∧
    (full 127).request.unread < 128 ∧ 128 ≤ (full 128).request.unread ∧
    (holding [.flags (some .noticeLost)]).arbiter.held = [.flags (some .noticeLost)] :=
  ⟨rfl, by decide, rfl, by decide, rfl, rfl, fun _ => ⟨rfl, rfl, rfl⟩, by decide, by decide, rfl⟩

/-- R12: a LOCKED fetch at a word of the region in RUNNING makes the hold; one below the region, and one in
PASS, make none. -/
theorem test_locked_fetch_holds :
    let locked : Attr := { user := false, locked := true, stretched := false }
    holds (exec (.instructionFetch 0x7C0000 0xF locked) (running [])) (fun t => t.path.hold) = true ∧
    holds (exec (.instructionFetch 0x7BFFFC 0xF locked) (running []))
      (fun t => t.path.sequence && !t.path.hold) = true ∧
    holds (exec (.instructionFetch 0x7C0000 0xF locked) State.reset)
      (fun t => t.path.sequence && !t.path.hold) = true := by decide +kernel

/-- R12, R26: a notice lost while a LOCKED sequence holds record writes back sets its flag at the end. -/
theorem test_flag_set_at_end :
    holds (exec .lockedSequenceEnd { holding [.notice (List.replicate 16 0)] with
      request := { (holding []).request with produce := 128 } })
      (fun t => t.request.noticeLost && t.memory.read 0x7C0008 == 4) = true := by decide +kernel

/-- Section 1.9, steps 1 to 5: the read of W2 drains two entries and returns 0x22222222. -/
theorem test_read_drains_through_match :
    let q : List Posted := [{ addr := 0x100, data := 0x11111111, be := 0xF },
      { addr := 0x104, data := 0x22222222, be := 0xF }, { addr := 0x100, data := 0x33, be := 1 }]
    holds (exec (.plainRead 0x104 0xF sup) { State.reset with path := { State.reset.path with queue := q } })
      (fun t => t.path.queue == q.drop 2 && t.path.ending == some (.done (some 0x22222222))) = true := by
  decide +kernel

/-- Section 1.9, step 3: byte enable 0 alone changes the low byte at the drain. -/
theorem test_drain_selected_byte :
    holds (exec .postedWriteDrain { State.reset with
      memory := Memory.write [] 0x100 [0x11, 0x11, 0x11, 0x11]
      path := { State.reset.path with queue := [{ addr := 0x100, data := 0x33, be := 1 }] } })
      (fun t => t.memory.readWord 0x100 == 0x11111133) = true := by decide +kernel

/-- R3: a fetch at the installed size ends NO MEMORY. -/
theorem test_fetch_no_memory :
    holds (exec (.instructionFetch 0x800000 0xF sup) State.reset)
      (fun t => t.path.ending == some (.busError .noMemory)) = true := by decide +kernel

/-- R8: a ninth plain write waits for a slot. -/
theorem test_ninth_write_waits :
    holds (exec (.plainWrite 0x200 5 0xF false sup) (withQueue State.reset 8))
      (fun t => t.path.waiting.isSome && t.path.queue.length == 8) = true := by decide +kernel

/-- R18: a USER write of the region ends PROTECTED. -/
theorem test_user_region_write :
    holds (exec (.regionWrite 0x7C0020 5 0xF false usr) (running []))
      (fun t => t.path.ending == some (.busError .protection)) = true := by decide +kernel

/-- R15: a Hold Limit of 0 is taken as 1. -/
theorem test_hold_limit_clamped :
    holds (exec (.holdLimitWrite 0 0xF false sup) (running [])) (fun t => t.path.holdLimit == 1) = true := by
  decide +kernel

/-- R29: 65 entries are clamped to 64 with REQUEST OVERRUN. -/
theorem test_post_index_clamped :
    holds (exec (.postIndexWrite 65 0xF false sup) (running []))
      (fun t => t.request.post == 64 && t.request.requestOverrun) = true := by decide +kernel

/-- R34: a consume index beyond the produce index empties the ring. -/
theorem test_consume_beyond :
    holds (exec (.noticeConsumeIndexWrite 3 0xF false sup)
      { running [] with request := { (running []).request with produce := 2 } })
      (fun t => t.request.consume == 2) = true := by decide +kernel

/-- R27: the tick after Saturday's last tenth begins Sunday. -/
theorem test_tick_rolls_week :
    holds (exec .tenthTick { State.reset with time := { runClock := 9, weekday := 6, tenths := 863999 } })
      (fun t => t.time == { runClock := 10, weekday := 0, tenths := 0 }) = true := by decide +kernel

/-- R1: pin reset returns to PASS with the straps as given and keeps memory. -/
theorem test_pin_reset :
    holds (exec (.pinReset .mib16) (running (region [(0x40, [1])])))
      (fun t => t.path.state == .pass && t.path.size == .mib16 && t.memory == region [(0x40, [1])]) = true := by
  decide +kernel

end Sys2Proof.Tests

namespace Sys2Proof.Tests

open Sys2Proof.Machine

/-! ### The Controller Region -/

theorem witness_RegionAccessDrainsTheQueue :
    (running []).PortFree ∧ sup.locked = false ∧ sup.stretched = false ∧
    (running []).regionAt (0x7FFFFC : BitVec 26).toNat ∧
    (running []).protectedWrite (writeCycle (0x7FFFFC : BitVec 26).toNat 5 0xF false sup) = false ∧
    (running []).protectedWrite (writeCycle (0x7FFFFC : BitVec 26).toNat 5 0 false sup) = false ∧
    (0xF : Enables) ≠ 0 ∧ ¬ observedOffset ((0x7FFFFC : BitVec 26).toNat - (running []).regionBase) :=
  ⟨free_running [], rfl, rfl, region_high, by decide +kernel, by decide +kernel, by decide,
    by unfold observedOffset; decide +kernel⟩

/-- A RUNNING part with job 0 QUEUED and entry 0 bound. -/
def guarded : State :=
  withEntry (running (region [(0xF200, [1])])) { rasterEntry with binding := some { page := 0, ctx := 0 } }

/-- Each clause at a boundary of its range. -/
theorem witness_ProtectedWritesAreRefused : guarded.PortFree ∧ sup.locked = false ∧
    guarded.path.state ≠ .pass ∧ guarded.regionBase = 0x7C0000 ∧ usr.user = true ∧
    0x54 ∈ [0x04, 0x14, 0x18, 0x44, 0x4C, 0x50, 0x54] ∧ 0x00C00 ≤ 0x019FC ∧ 0x019FC < 0x01A00 ∧
    0x01F00 ≤ 0x01FFC ∧ 0x01FFC < 0x02000 ∧ 0x03000 ≤ 0x0EFFC ∧ 0x0EFFC < 0x0F000 ∧ 0x0F200 ≤ 0x0F3FC ∧
    0x0F3FC < 0x0F400 ∧ 0x10000 ≤ 0x10010 ∧ 16 ≤ 0x10010 % 32 ∧ 0x16000 ≤ 0x19FFC ∧ 0x19FFC < 0x1A000 ∧
    (guarded.job 0).state = .queued ∧ 0x0F000 + 32 * 0 ≤ 0x0F01C ∧ 0x0F01C < 0x0F000 + 32 * 0 + 32 ∧
    (guarded.aperture 0).binding ≠ none ∧ 0x100 ≤ 0x11C ∧ 0x11C < 0x100 + 32 := by
  refine ⟨⟨rfl, rfl, rfl⟩, rfl, by decide, by decide +kernel, rfl, ?_⟩
  decide +kernel

/-- A RUNNING part with a depth and a low condition. -/
def storing (depth : Nat) (low : Bool) : State :=
  { running [] with store := { (running []).store with depth := depth, low := low } }

theorem accepts_running (m : Memory) : (running m).Accepts 0xF sup :=
  ⟨free_running m, by show PathState.running ≠ .pass; decide, by decide, rfl, rfl, rfl⟩
theorem accepts_storing (d : Nat) (b : Bool) : (storing d b).Accepts 0xF sup :=
  ⟨⟨rfl, rfl, rfl⟩, by show PathState.running ≠ .pass; decide, by decide, rfl, rfl, rfl⟩

/-- The depth equal to the reserve written is low, one above it is not. -/
theorem witness_SettingsAreClampedAndWrittenBack :
    (running []).Accepts 0xF sup ∧ (storing 5 false).Accepts 0xF sup ∧ (storing 6 true).Accepts 0xF sup ∧
    (storing 5 true).store.low
      = decide (((storing 5 true).wordWritten 0x24 5 0xF).store.depth
          ≤ min (((storing 5 true).wordWritten 0x24 5 0xF).config 0x24).toNat 255) ∧
    (storing 5 false).store.low = false ∧
    decide (((storing 5 false).wordWritten 0x24 5 0xF).store.depth
      ≤ min (((storing 5 false).wordWritten 0x24 5 0xF).config 0x24).toNat 255) = true ∧
    (storing 6 true).store.low = true ∧
    decide (((storing 6 true).wordWritten 0x24 5 0xF).store.depth
      ≤ min (((storing 6 true).wordWritten 0x24 5 0xF).config 0x24).toNat 255) = false :=
  ⟨accepts_running [], accepts_storing 5 false, accepts_storing 6 true, by decide +kernel, rfl,
    by decide +kernel, rfl, by decide +kernel⟩

/-- A RUNNING part that holds a Path Fault. -/
def faulty : State :=
  { running [] with path := { (running []).path with
      fault := some { cause := .noMemory, addr := 0, write := false, user := false, program := false, locked := false,
                      weekday := 0, tenths := 0, more := false } } }

/-- 64 entries are exposed and 65 are not; a cause word of zero and one that is not. -/
theorem witness_ConfigWordsAreActedOn :
    (running []).Accepts 0xF sup ∧ faulty.Accepts 0xF sup ∧
    ((((running []).wordWritten 0x10 64 0xF).config 0x10).setWidth 16 - (running []).request.take : Index).toNat ≤ 64 ∧
    64 < ((((running []).wordWritten 0x10 65 0xF).config 0x10).setWidth 16 - (running []).request.take : Index).toNat ∧
    ((running []).wordWritten 0x48 0 0xF).config 0x48 = 0 ∧
    ((running []).wordWritten 0x48 1 0xF).config 0x48 ≠ 0 ∧ (running []).path.fault = none ∧
    (faulty.wordWritten 0x48 1 0xF).config 0x48 ≠ 0 ∧ faulty.path.fault.isSome = true :=
  ⟨accepts_running [], ⟨⟨rfl, rfl, rfl⟩, by decide, by decide, rfl, rfl, rfl⟩, by decide +kernel,
    by decide +kernel, by decide +kernel, by decide +kernel, rfl, by decide +kernel, rfl⟩

/-- A part in PASS with a leaf count of 33, one above the Receive Reserve. -/
def startable : State := { State.reset with memory := region [(0x40, [33])] }

/-- The consume index at the produce index and one beyond it; a START that is taken. -/
theorem witness_ConsumeIndexTakesWhatWasWritten :
    (running []).Accepts 0xF sup ∧
    (((((running []).wordWritten 0x1C 0 0xF).config 0x1C).setWidth 16 : Index).toNat + 65536 - 0) % 65536
      ≤ ((running []).request.produce.toNat + 65536 - (running []).request.consume.toNat) % 65536 ∧
    ((running []).request.produce.toNat + 65536 - (running []).request.consume.toNat) % 65536
      < (((((running []).wordWritten 0x1C 1 0xF).config 0x1C).setWidth 16 : Index).toNat + 65536 - 0) % 65536 ∧
    startable.path.state ≠ .starting ∧
    holds (exec (.startFresh false sup) startable) (fun t => t.path.state == .starting) = true :=
  ⟨accepts_running [], by decide +kernel, by decide +kernel, by decide, by decide +kernel⟩

theorem witness_ApertureCopyFollowsMemory :
    (running []).Accepts 0xF sup ∧ ((running []).aperture 0).binding = none ∧
    ((running []).aperture 7).binding = none := ⟨accepts_running [], by decide +kernel, by decide +kernel⟩

theorem witness_LineConfigIsReloaded : (running []).Accepts 0xF sup := accepts_running []

/-- Section 1.10: a DIGITS entry over 4096 bytes at 0x03600000 with target 0x00100000 is valid. -/
theorem test_aperture_entry_valid :
    holds (exec (.apertureEntryWrite 6 0 0x00000201 0xF false sup)
      (running (region [(0x1C4, leBytes 4 0x03600000 ++ leBytes 4 4096 ++ [0, 0, 0, 0] ++ leBytes 4 0x100000)])))
      (fun t => (t.aperture 6).valid && (t.aperture 6).kind == .digits) = true := by decide +kernel

/-- Section 7.8: prefix 9 C, PULSE, BLIND, answer rings 3. -/
theorem test_line_config :
    holds (exec (.lineConfigWrite 3 0 0x03010102 0xF false sup) (running (region [(0x2D0, [0x9C, 0xFF])])))
      (fun t => (t.line 3).held.dialPrefix == [9, 12] && (t.line 3).held.pulse && (t.line 3).held.blind
        && (t.line 3).held.answerRings == 3 && (t.line 3).held.direction == .both) = true := by decide +kernel

/-! ### START, pin reset and the clocks -/

theorem start_fresh : StartWrite startable false sup (startable.wordWritten 0x00 1 0xF) :=
  ⟨⟨rfl, rfl, rfl⟩, rfl, rfl, rfl, rfl, by decide, by decide +kernel, by decide +kernel, by decide +kernel⟩

/-- A restart from RUNNING that keeps the store. -/
theorem start_keep : StartWrite (running (region [(0x40, [1])])) true sup
    ((running (region [(0x40, [1])])).wordWritten 0x00 2 0xF) :=
  ⟨free_running _, rfl, rfl, rfl, rfl, by decide, by decide +kernel, by decide +kernel, by decide +kernel⟩

theorem witness_StartIsTaken : StartWrite startable false sup (startable.wordWritten 0x00 1 0xF) ∧
    StartWrite (running (region [(0x40, [1])])) true sup ((running (region [(0x40, [1])])).wordWritten 0x00 2 0xF) ∧
    (running (region [(0x40, [1])])).path.state = .running ∧ startable.path.state = .pass ∧
    startable.store.receiveReserve < (startable.wordWritten 0x00 1 0xF).valueAt 0x40 4 :=
  ⟨start_fresh, start_keep, rfl, rfl, by decide +kernel⟩
theorem witness_StartFreshEmptiesTheTables :
    StartWrite startable false sup (startable.wordWritten 0x00 1 0xF) := start_fresh
theorem witness_StartKeepAccountsForEveryLeaf : StartWrite (running (region [(0x40, [1])])) true sup
    ((running (region [(0x40, [1])])).wordWritten 0x00 2 0xF) := start_keep

/-- A part in STARTING. -/
def starting (paper : Bool) : State :=
  { State.reset with path := { State.reset.path with state := .starting }
                     print := { State.reset.print with paper := paper } }

/-- STARTING; a base of 4; a count of 0, of 4097, and one whose Leaves end above the region. -/
theorem witness_StartIsRefused : State.reset.PortFree ∧ sup.user = false ∧ sup.locked = false ∧
    sup.stretched = false ∧ (starting true).path.state = .starting ∧
    ({ State.reset with memory := region [(0x3C, [4])] }.wordWritten 0 1 0xF).valueAt 0x3C 4 % 4096 ≠ 0 ∧
    (State.reset.wordWritten 0 1 0xF).valueAt 0x40 4 = 0 ∧
    4096 < ({ State.reset with memory := region [(0x40, [1, 0x10])] }.wordWritten 0 1 0xF).valueAt 0x40 4 ∧
    State.reset.regionBase < ({ State.reset with memory := region [(0x40, [0xC1, 7])] }.wordWritten 0 1
        0xF).valueAt 0x3C 4
      + 4096 * ({ State.reset with memory := region [(0x40, [0xC1, 7])] }.wordWritten 0 1 0xF).valueAt 0x40 4 :=
  ⟨free_reset, rfl, rfl, rfl, rfl, by decide +kernel, by decide +kernel, by decide +kernel, by decide +kernel⟩

theorem witness_StartedRuns : (starting true).path.state = .starting ∧ (starting true).path.hold = false ∧
    (starting true).print.paper = true ∧ (starting true).waitingSlots = [] ∧
    (starting false).print.paper = false := ⟨rfl, rfl, rfl, by decide +kernel, rfl⟩

/-- A part in STARTING whose slot 31 waits to print page 0. -/
def startingHead : State :=
  { starting true with memory := region [(0x3000, [2, 0, 0, 0, 1, 0]), (0x1800 + 16 * 31, [1, 0, 1, 0])] }

theorem witness_StartedRuns_head : startingHead.path.state = .starting ∧ startingHead.path.hold = false ∧
    startingHead.print.paper = true ∧ startingHead.print.state = .idle ∧ startingHead.HeadIs 31 ∧
    startingHead.pageState (startingHead.slot 31).page ≠ .dropped :=
  ⟨rfl, rfl, rfl, rfl, ⟨by decide +kernel, by unfold State.leads; decide +kernel⟩, by decide +kernel⟩

/-- No hold; a hold with two hidden bytes at different addresses. -/
theorem witness_PinResetValues : (running []).path.hold = false ∧
    ({ sequenced.arbiter with hidden := [(0x7C0000, 1), (0x7C0001, 2)] } : Arbiter).hidden.Pairwise
      (fun x y => x.1 ≠ y.1) := ⟨rfl, by decide⟩

theorem witness_TenthTickAdvancesTheClocks :
    let s := { State.reset with time := { runClock := 0, weekday := 6, tenths := 863999 } }
    s.time.weekday ≤ 6 ∧ s.time.tenths ≤ 863999 := by decide

/-- R23: a leaf count of 0 sets START FAULT and leaves the part in PASS. -/
theorem test_start_refused :
    holds (exec (.startFresh false sup) State.reset) (fun t => t.path.state == .pass && t.request.startFault)
      = true := by decide +kernel

/-! ### Composing -/

/-- A COMPOSE entry with stride 256 bound to CP0. -/
def composeEntry : Aperture :=
  { rasterEntry with kind := .compose, binding := some { page := 0, ctx := 0 } }

/-- A compose context of page 0. -/
def aContext (current : Option (Nat × Raster)) (closed : Option Nat) (n : Nat) (window : Window) : ComposeContext :=
  { entry := 0, enc := { page := 0, next := 0, position := 0, reference := 0, nonDirect := 0 },
    current := current, closedThrough := closed, lead := 0,
    queue := List.replicate n { index := 0, pixels := 0, lead := 0 }, disorder := false, window := window }

/-- A RUNNING part with CP0 taken by entry 0. -/
def composing (m : Memory) (c : ComposeContext) : State :=
  let s := withEntry (running m) composeEntry
  { s with engine := { s.engine with cp := s.engine.cp.set 0 (some c) } }

theorem passes_compose (m : Memory) (c : ComposeContext) :
    (composing m c).Passes 0 .compose (0x10002DC : BitVec 26).toNat sup := by
  have h : ∀ e, (composing m c).aperture e = (withEntry (running []) composeEntry).aperture e := fun _ => rfl
  refine ⟨⟨?_, ?_, ?_⟩, ?_, rfl, fun h => by cases h⟩
  · show (withEntry (running []) composeEntry).inRegion _ = false; decide +kernel
  · rw [h]; decide +kernel
  · intro f hf; omega
  · rw [h]; decide +kernel

/-- Offset 0x2DC is byte 220 of line 2: above line 1, on line 2, below line 3. -/
theorem witness_ComposeWriteCases :
    (∀ m c, (composing m c).Passes 0 .compose (0x10002DC : BitVec 26).toNat sup) ∧
    (∀ m c, (composing m c).compose 0 = some c ∧ (composing m c).PortFree) ∧
    composeEntry.binding = some { page := 0, ctx := 0 } ∧ 0x2DC / 256 = 2 ∧ 0x2DC % 256 < 224 ∧
    (aContext (some (2, 0)) none 0 .opened).window = .opened ∧ (aContext none none 0 .closing).window ≠ .opened ∧
    (aContext (some (1, 0)) none 1 .opened).queue.length < 2 ∧
    2 ≤ (aContext (some (1, 0)) none 2 .opened).queue.length ∧
    (aContext (some (3, 0)) none 0 .opened).current = some (3, 0) ∧
    (aContext none none 0 .opened).closedThrough = none ∧ (aContext none (some 1) 0 .opened).closedThrough = some 1 ∧
    (aContext none (some 2) 0 .opened).closedThrough = some 2 ∧
    (withWaiting (composing [] (aContext (some (1, 0)) none 1 .opened)) aCycle (.composeSlot 0)).path.waiting
      = some { cycle := aCycle, why := .composeSlot 0 } :=
  ⟨passes_compose, fun _ _ => ⟨rfl, rfl, rfl, rfl⟩, rfl, by decide, by decide, rfl, by decide, by decide, by decide,
    rfl, rfl, rfl, rfl, rfl⟩

/-- A Page Record of page 0: FILLING with one Leaf. -/
def fillingPage : Memory := region [(0x3000, [1]), (0x3010, [1])]

/-- A RUNNING part that scans page 0 with two white lines in the ring. -/
def scanning : State :=
  let s := running fillingPage
  { s with scan := { s.scan with state := .reading, page := some 0, ring := [0, 0] }
           engine := { s.engine with sc := some (EncodeFrame.start 0) } }

theorem white_line_bits : ((EncodeFrame.start 0).code 0).bits.length = 22 := by decide +kernel

theorem witness_GrantsCommitOneLine :
    let c := aContext none none 1 .opened
    (composing fillingPage c).path.hold = false ∧
    (composing fillingPage c).engineChoice = some (5, .cp 0) ∧
    (composing fillingPage c).compose 0 = some c ∧ c.disorder = false ∧
    c.queue = { index := 0, pixels := 0, lead := 0 } :: [] ∧
    (composing fillingPage { c with lead := 1, queue := [] }).engineChoice = some (5, .cp 0) ∧
    (composing fillingPage { c with queue := [{ index := 1, pixels := 0, lead := 1 }] }).engineChoice
      = some (5, .cp 0) ∧
    (composing fillingPage c).Fits 0 ((EncodeFrame.start 0).code 0).bits.length ∧
    scanning.path.hold = false ∧ scanning.engineChoice = some (4, .sc) ∧
    scanning.engine.sc = some (EncodeFrame.start 0) ∧ scanning.scan.ring = 0 :: 0 :: [] ∧
    scanning.Fits 0 ((EncodeFrame.start 0).code 0).bits.length := by
  refine ⟨rfl, by decide +kernel, rfl, rfl, rfl, by decide +kernel, by decide +kernel, ?_, rfl, by decide +kernel,
    rfl, rfl, ?_⟩
  · rw [white_line_bits]
    exact ⟨by decide +kernel, by decide +kernel, by decide +kernel⟩
  · rw [white_line_bits]
    exact ⟨by decide +kernel, by decide +kernel, by decide +kernel⟩

/-- CP0 with a queued line and no Leaf for it; the host's write waits on its Aperture. -/
def starved : State :=
  withWaiting (composing (region [(0x3000, [1])]) (aContext none none 1 .opened)) aCycle (.composeSlot 0)

/-- References of a page. -/
def withReferences (s : State) (p n : Nat) : State :=
  { s with store := { s.store with references := s.store.references.setIfInBounds p n } }

/-- The last line of page 0's sheet is in the ring, with a Leaf for it or with none; the Leaf Area ends where
the Controller Region begins. -/
def closingScan (m : Memory) : State :=
  let s := withReferences { scanning with memory := m } 0 1
  { s with scan := { s.scan with state := .closing, ring := [0], maxPages := 1 }
           store := { s.store with leafBase := 0, leafCount := 1984, depth := 0 } }

/-- The depth is at the Receive Reserve; the last line fits, and does not. -/
theorem witness_GrantsCommitOneLine_ends :
    starved.path.hold = false ∧ starved.engineChoice = some (5, .cp 0) ∧
    starved.compose 0 = some (aContext none none 1 .opened) ∧
    starved.Refuses 0 ((EncodeFrame.start 0).code 0).bits.length ∧
    starved.path.waiting = some { cycle := aCycle, why := .composeSlot 0 } ∧
    (∀ m, (closingScan m).path.hold = false ∧ (closingScan m).engine.sc = some (EncodeFrame.start 0) ∧
      (closingScan m).scan.ring = [0] ∧ (closingScan m).scan.state = .closing ∧
      (closingScan m).scan.page = some 0 ∧ (closingScan m).path.state ≠ .pass ∧
      (closingScan m).request.unread + 3 ≤ 128) ∧
    1 ≤ (closingScan fillingPage).references 0 ∧ (closingScan fillingPage).engineChoice = some (4, .sc) ∧
    (closingScan fillingPage).Fits 0 ((EncodeFrame.start 0).code 0).bits.length ∧
    (closingScan fillingPage).LeavesBelow 0 ∧
    (closingScan (region [(0x3000, [1])])).engineChoice = some (4, .sc) ∧
    (closingScan (region [(0x3000, [1])])).Refuses 0 ((EncodeFrame.start 0).code 0).bits.length := by
  refine ⟨rfl, by decide +kernel, rfl, ?_, rfl, fun m => ⟨rfl, rfl, rfl, rfl, rfl, ?_, ?_⟩, by decide +kernel,
    by decide +kernel, ?_, ⟨by decide +kernel, by decide +kernel, by decide +kernel, by decide +kernel,
      by decide +kernel⟩, by decide +kernel, ?_⟩
  · rw [white_line_bits]; exact ⟨by decide +kernel, by decide +kernel, by decide +kernel, by decide +kernel⟩
  · show PathState.running ≠ .pass; decide
  · rw [show (closingScan m).request = State.reset.request from rfl]; decide +kernel
  · rw [white_line_bits]; exact ⟨by decide +kernel, by decide +kernel, by decide +kernel⟩
  · rw [white_line_bits]; exact ⟨by decide +kernel, by decide +kernel, by decide +kernel, by decide +kernel⟩

/-- R89: writing the next line above closes the line and queues it with the lead between them. -/
theorem test_compose_higher_line :
    holds (exec (.composeWrite 0x1000300 0x80 0xF false sup) (composing [] (aContext (some (1, 7)) none 0 .opened)))
      (fun t => (t.compose 0).map (fun c => (c.queue.map (fun q => q.index), c.lead, c.closedThrough, c.current))
        == some ([1], 1, some 1, some (3, BitVec.ofNat 1792 (2 ^ 1791)))) = true := by decide +kernel

/-- R88: a compose read returns zero. -/
theorem test_compose_read_zero :
    holds (exec (.composeRead 0x1000000 0xF sup) (composing [] (aContext (some (0, 7)) none 0 .opened)))
      (fun t => t.path.ending == some (.done (some 0))) = true := by decide +kernel

/-- R43, R65: a white line is 22 bits in the stream, with Restart Table entry 0 at offset 0. -/
theorem test_sc_grant_commits :
    holds (exec (.scGrant true) scanning) (fun t => t.pageLines 0 == 1 && t.codedBits 0 == 22
      && t.restartEntry 0 0 == some 0 && t.scan.ring.length == 1) = true := by decide +kernel

/-! ### The raster view and DIGITS Apertures -/

/-- A RUNNING part with a view of page 0 bound to entry 0. -/
def viewingEntry (m : Memory) (v : ViewContext) : State :=
  let s := withEntry (viewing m v) { rasterEntry with binding := some { page := 0, ctx := 0 } }
  s

theorem passes_raster (m : Memory) (v : ViewContext) :
    (viewingEntry m v).Passes 0 .raster (0x10003DC : BitVec 26).toNat sup := by
  have h : ∀ e, (viewingEntry m v).aperture e = (viewingEntry [] aView).aperture e := fun _ => rfl
  refine ⟨⟨?_, ?_, ?_⟩, ?_, rfl, fun h => by cases h⟩
  · show (viewingEntry [] aView).inRegion _ = false; decide +kernel
  · rw [h]; decide +kernel
  · intro f hf; omega
  · rw [h]; decide +kernel

/-- Offset 0x3DC is byte 220 of line 3, cached in one view and not in the other; line 0 of a SEALED page
of no lines is white. -/
theorem witness_RasterReadCases :
    (∀ m v, (viewingEntry m v).Passes 0 .raster (0x10003DC : BitVec 26).toNat sup ∧ (viewingEntry m v).PortFree ∧
      (viewingEntry m v).view 0 = some v) ∧
    aView.cache.length ≤ 4 ∧ 0x3DC / 256 = 3 ∧ 0x3DC % 256 < 224 ∧
    (viewingEntry fillingPage aView).pageState 0 = .filling ∧
    aView.cache.find? (fun y => y.1 == 3) = some (3, 5) ∧
    ({ aView with cache := [] } : ViewContext).cache.find? (fun y => y.1 == 3) = none ∧
    (viewingEntry (region [(0x3000, [2])]) aView).pageState 0 = .sealed ∧
    (viewingEntry (region [(0x3000, [2])]) aView).pageLines 0 ≤ 3 :=
  ⟨fun m v => ⟨passes_raster m v, ⟨rfl, rfl, rfl⟩, rfl⟩, by decide, by decide, by decide, by decide +kernel,
    by decide +kernel, by decide +kernel, by decide +kernel, by decide +kernel⟩

theorem witness_RasterWriteChangesNothing :
    (viewingEntry [] aView).PortFree ∧ (viewingEntry [] aView).Passes 0 .raster (0x10003DC : BitVec 26).toNat sup ∧
    ((viewingEntry [] aView).aperture 0).binding ≠ none :=
  ⟨⟨rfl, rfl, rfl⟩, passes_raster [] aView, by decide +kernel⟩

/-- A view of a FILLING page of one line whose next line is 0. -/
def aheadView (target fetch : Option Nat) : ViewContext := { aView with cache := [], target := target, fetch := fetch }

theorem witness_ViewDecodesTowardsItsTarget :
    let m := region [(0x3000, [1]), (0x3004, [1])]
    (viewing m (aheadView (some 0) none)).path.hold = false ∧
    (viewing m (aheadView (some 0) none)).engineChoice = some (0, .rv 0) ∧
    (viewing m (aheadView none (some 0))).engineChoice = some (6, .rv 0) ∧
    (viewing m (aheadView (some 0) none)).viewStart (aheadView (some 0) none) 0 = some aView.dec ∧
    (viewing m (aheadView none (some 0))).viewStart (aheadView none (some 0)) 0 = some aView.dec ∧
    (withWaiting (viewing [] aView) aCycle (.view 0)).path.waiting = some { cycle := aCycle, why := .view 0 } ∧
    (withWaiting (viewing [] aView) aCycle (.view 0)).view 0 = some aView ∧ aView.entry = 0 ∧
    aView.cache.length ≤ 4 ∧ aView.target = some 3 ∧
    aView.cache.find? (fun y => y.1 == 3) = some (3, 5) :=
  ⟨rfl, by decide +kernel, by decide +kernel, by decide +kernel, by decide +kernel, rfl, rfl, rfl, by decide, rfl,
    by decide +kernel⟩

/-- Section 7.9: a DIGITS entry with target 0x00100000. -/
def digitsEntry : Aperture :=
  { rasterEntry with kind := .digits, base := 0x3600000, target := 0x100000 }

theorem witness_DigitsPackAndUnpack :
    (withEntry State.reset digitsEntry).PortFree ∧
    (withEntry State.reset digitsEntry).Passes 0 .digits (0x3600FFC : BitVec 26).toNat sup ∧
    sup.stretched = false :=
  ⟨⟨rfl, rfl, rfl⟩, ⟨⟨by decide +kernel, by decide +kernel, by decide +kernel⟩, by decide +kernel, rfl, by decide⟩,
    rfl⟩

/-- Section 7.9: ",2W5" at offset 4 packs into 0xC2 0xD5. -/
theorem test_digits_pack :
    holds (exec (.digitsWrite 0x3600004 0x3557322C 0xF false sup) (withEntry State.reset digitsEntry))
      (fun t => t.memory.readBytes 0x100002 2 == [0xC2, 0xD5]) = true := by decide +kernel

/-- Section 7.9: "#   " is read back from 0xBF 0xFF. -/
theorem test_digits_unpack :
    holds (exec (.digitsRead 0x3600008 0xF sup)
      { withEntry State.reset digitsEntry with memory := Memory.write [] 0x100004 [0xBF, 0xFF] })
      (fun t => t.path.ending == some (.done (some 0x20202023))) = true := by decide +kernel

/-! ### Notices and requests -/

/-- A RUNNING part with unread notices. -/
def unread (n : Index) : State := { running [] with request := { (running []).request with produce := n } }

/-- 128 notices unread and one fewer. -/
theorem witness_NoticesBeyondTheRingAreDropped :
    (unread 128).path.hold = false ∧ (unread 128).path.state ≠ .pass ∧ 128 ≤ (unread 128).request.unread ∧
    (unread 127).request.unread < 128 ∧
    ({ kind := .paperOut, subject := [0xFF, 0xFF] } : Notice).subject.length = 2 := by decide +kernel

/-- Kinds 0 and 15. -/
theorem witness_RequestsAreAnswered :
    (unread 127).path.hold = false ∧ (unread 127).path.state ≠ .pass ∧ (unread 127).request.unread < 128 ∧
    (asked 0 [] []).canTakeRequest = true ∧ (asked 0 [] []).requestKind = 0 ∧
    (asked 15 [] []).canTakeRequest = true ∧ 14 < (asked 15 [] []).requestKind ∧
    (unread 127).request.executing = none ∧ ([1, 2] : List Byte).length = 2 ∧
    ({ (unread 127).request with executing := some (.push 7 [1, 2]) } : RequestUnit).executing
      = some (.push 7 [1, 2]) := by decide +kernel

theorem takes_of {s : State} {k : RequestKind}
    (h : (s.path.hold = false ∧ s.requestIs k.code = true ∧ s.claimWaits k = false)) :
    s.Takes k := ⟨h.1, h.2.1, h.2.2⟩

/-- R31: an unknown kind is answered UNKNOWN and the take index advances. -/
theorem test_unknown_request :
    holds (exec .unknownRequest (asked 15 [] [])) (fun t => t.request.take == 1 && t.request.produce == 1)
      = true := by decide +kernel

end Sys2Proof.Tests

namespace Sys2Proof.Tests

open Sys2Proof.Machine

/-! ### Scanning -/

/-- A SCAN DOCUMENT request: FINE, a threshold mode and its value, a page count; the Scan Unit in a state. -/
def scanAsked (mode value pages : Nat) (st : ScanState) : State :=
  let s := asked 1 [1, mode, value, pages] []
  { s with scan := { s.scan with state := st } }

/-- A RUNNING part whose Scan Unit feeds after a count of steps. -/
def feeding (m : Memory) (steps : Nat) : State :=
  let s := running m
  { s with scan := { s.scan with state := .feeding, feedSteps := steps } }

/-- A part asked to stop the scan of page 0, or of no page. -/
def stopAsked (st : ScanState) (page : Option Nat) : State :=
  let s := asked 2 [] [(0x3000, [1])]
  { s with scan := { s.scan with state := st, page := page } }

/-- 128 Page Records in use. -/
def fullDirectory : Memory := region ((List.range 128).map (fun p => (0x3000 + 256 * p, [1])))

/-- Requests that are good, with page counts 1 and 50 and the ends of both threshold modes, and one
that is not; the stops; the steps 0 and 399, the count of 400. -/
theorem witness_ScansFeedTheirSheets :
    (scanAsked 0 255 50 .idle).Takes .scanDocument ∧ (scanAsked 1 15 51 .idle).Takes .scanDocument ∧
    (scanAsked 1 8 1 .feeding).Takes .scanDocument ∧
    ((scanAsked 0 255 50 .idle).argument 1, (scanAsked 0 255 50 .idle).argument 2,
      (scanAsked 0 255 50 .idle).argument 3, (scanAsked 0 255 50 .idle).argument 4) = (1, 0, 255, 50) ∧
    ((scanAsked 1 8 1 .feeding).argument 2, (scanAsked 1 8 1 .feeding).argument 3,
      (scanAsked 1 8 1 .feeding).argument 4) = (1, 8, 1) ∧
    (scanAsked 1 15 51 .idle).argument 4 = 51 ∧ (scanAsked 1 8 1 .feeding).scan.state ≠ .idle ∧
    (stopAsked .idle none).Takes .stopScan ∧ (stopAsked .feeding none).Takes .stopScan ∧
    (stopAsked .reading (some 0)).Takes .stopScan ∧ (stopAsked .reading (some 0)).pageState 0 = .filling ∧
    (feeding [] 399).scan.feedSteps < 400 ∧ (feeding [] 399).store.taking = true ∧
    (∃ p, p < 128 ∧ (feeding [] 399).pageState p = .free) ∧
    (∀ p, p < 128 → (feeding fullDirectory 0).pageState p ≠ .free) ∧
    (feeding [] 400).path.hold = false ∧ (feeding [] 400).scan.state = .feeding :=
  ⟨takes_of (by decide +kernel), takes_of (by decide +kernel), takes_of (by decide +kernel), by decide +kernel,
    by decide +kernel, by decide +kernel, by decide +kernel, takes_of (by decide +kernel), takes_of (by decide +kernel),
    takes_of (by decide +kernel), by decide +kernel, by decide +kernel, rfl, ⟨0, by decide +kernel⟩,
    by decide +kernel, rfl, rfl⟩

/-- A RUNNING part that reads page 0. -/
def reading (lines : Nat) (ring : List Raster) (t : Threshold) (white : Nat) : State :=
  let s := running fillingPage
  { s with scan := { s.scan with state := .reading, page := some 0, linesRead := lines, ring := ring, threshold := t,
                                 white := white } }

/-- Samples of one value on a chain. -/
def samples (v : Byte) : List Byte := List.replicate 896 v

/-- A part in STORE WAIT until a Run Clock count. -/
def storeWaiting (until_ : BitVec 32) : State :=
  let s := running fillingPage
  { s with scan := { s.scan with state := .storeWait true, page := some 0, waitUntil := until_ } }

theorem sample_at (n i : Nat) (v : Byte) (h : i < n) : ((List.replicate n v).getD i 0).toNat = v.toNat := by
  simp [h]

/-- The ring at 15 lines and empty, line counts 2559 and 2560; a wait that ends now and one tenth later. -/
theorem witness_ScannedLinesAreThresholded :
    (reading 2559 [] (.track 12) 255).path.hold = false ∧ (reading 2559 [] (.track 12) 255).scan.state = .reading ∧
    (reading 2559 [] (.track 12) 255).scan.ring.length < 16 ∧
    (reading 1 (List.replicate 15 0) (.fixed 128) 255).scan.ring.length < 16 ∧
    (reading 1 (List.replicate 15 0) (.fixed 128) 255).scan.ring ≠ [] ∧
    2560 ≤ (reading 2560 [] (.fixed 128) 255).scan.linesRead ∧
    (samples 200).length = 896 ∧
    (∀ p, p < 1792 → (if p % 2 = 0 then ((samples 200).getD (p / 2) 0).toNat
      else ((samples 200).getD ((1791 - p) / 2) 0).toNat) ≤ 200) ∧
    (∃ p, p < 1792 ∧ (if p % 2 = 0 then ((samples 200).getD (p / 2) 0).toNat
      else ((samples 200).getD ((1791 - p) / 2) 0).toNat) = 200) ∧
    (reading 2559 [] (.track 12) 255).scan.linesRead < 2560 ∧
    (storeWaiting 0).path.hold = false ∧ (storeWaiting 0).scan.state = .storeWait true ∧
    ((storeWaiting 0).time.runClock - (storeWaiting 0).scan.waitUntil).toNat < 2 ^ 31 ∧
    2 ^ 31 ≤ ((storeWaiting 1).time.runClock - (storeWaiting 1).scan.waitUntil).toNat :=
by
  refine ⟨rfl, rfl, by decide, by decide, by decide +kernel, by decide, List.length_replicate, ?_,
    ⟨0, by decide, sample_at 896 0 200 (by decide)⟩, by decide, rfl, rfl, by decide +kernel, by decide +kernel⟩
  intro p h
  unfold samples
  rw [sample_at 896 _ 200 (by omega), sample_at 896 _ 200 (by omega)]
  split <;> decide

/-- The scan of page 0 with its Reference: a sheet done with an empty ring, a jam, a full store. -/
theorem witness_ScannedLinesAreThresholded_ends :
    let s := fun lines => withReferences (reading lines [] (.track 12) 255) 0 1
    let w := withReferences (storeWaiting 0) 0 1
    (∀ n, (s n).path.hold = false ∧ (s n).scan.state = .reading ∧ (s n).scan.ring = [] ∧
      (s n).scan.page = some 0 ∧ (s n).path.state ≠ .pass) ∧
    (s 0).pageState 0 = .filling ∧ 1 ≤ (s 0).references 0 ∧ (s 0).request.unread + 3 ≤ 128 ∧
    2560 ≤ (s 2560).scan.linesRead ∧ (s 2560).pageState 0 = .filling ∧ w.path.hold = false ∧
    w.scan.state = .storeWait true ∧ w.scan.page = some 0 ∧ w.pageState 0 = .filling ∧
    w.path.state ≠ .pass ∧ w.request.unread + 3 ≤ 128 :=
  ⟨fun _ => ⟨rfl, rfl, rfl, rfl, by show PathState.running ≠ .pass; decide⟩, by decide +kernel,
    by decide +kernel, by decide +kernel, by decide, by decide +kernel, rfl, rfl, rfl, by decide +kernel,
    by decide, by decide +kernel⟩

/-- Section 5.2: TRACK with q = 12 over lines with the largest samples 230, 240, 120 and 250. -/
theorem test_track_threshold :
    lineThreshold (.track 12) 255 [230, 9] = (254, 190) ∧ lineThreshold (.track 12) 254 [240] = (254, 190) ∧
    lineThreshold (.track 12) 254 [120] = (246, 184) ∧ lineThreshold (.track 12) 246 [250] = (250, 187) := by
  decide

/-! ### Composing and views by request -/

/-- A RUNNING part asked for a compose request of entry 0, with the entry bound to CP0 or not. -/
def composeAsked (kind : Nat) (c : Option ComposeContext) : State :=
  let s := withEntry (asked kind [0, 1] [(0x3000, [1]), (0x3010, [1])])
    { rasterEntry with kind := .compose, binding := c.map (fun _ => { page := 0, ctx := 0 }) }
  { s with engine := { s.engine with cp := s.engine.cp.set 0 c } }

/-- The same with a request in progress. -/
def executing (s : State) (x : Executing) : State := { s with request := { s.request with executing := some x } }

/-- An entry with no binding and page 1 FREE; a current line with one line queued and with two. -/
theorem witness_OpenAndPushCompose :
    let s := composeAsked 3 none
    let p := fun n => composeAsked 4 (some (aContext (some (2, 0)) none n .opened))
    s.Takes .openCompose ∧ s.argument 1 = 0 ∧ s.argument 2 = Resolution.fine.code ∧
    (s.aperture 0).valid = true ∧ (s.aperture 0).kind = .compose ∧ (s.aperture 0).binding = none ∧
    s.compose 0 = none ∧ s.store.taking = true ∧ s.pageState 1 = .free ∧
    (∀ n, ((p n).aperture 0).kind = .compose ∧ ((p n).aperture 0).binding = some { page := 0, ctx := 0 } ∧
      (p n).compose 0 = some (aContext (some (2, 0)) none n .opened) ∧ (p n).path.hold = false ∧
      (executing (p n) (.push 0 [1, 2])).request.executing = some (.push 0 [1, 2])) ∧
    (p 1).requestIs 4 = true ∧ (p 2).requestIs 4 = true ∧ (p 1).argument 1 = 0 ∧
    (composeAsked 4 (some (aContext none none 0 .opened))).requestIs 4 = true ∧
    (List.replicate 1 (0 : Nat)).length < 2 ∧ 2 ≤ (List.replicate 2 (0 : Nat)).length :=
  ⟨takes_of (by decide +kernel), by decide +kernel, by decide +kernel, by decide +kernel, by decide +kernel,
    by decide +kernel, by decide +kernel, rfl, by decide +kernel, fun _ => ⟨rfl, rfl, rfl, rfl, rfl⟩,
    by decide +kernel, by decide +kernel, by decide +kernel, by decide +kernel, by decide, by decide⟩

/-- Nothing left to code, and one line left. -/
theorem witness_SealComposeEndsTheWindow :
    let s := fun n => composeAsked 5 (some (aContext none none n .opened))
    (∀ n, ((s n).aperture 0).kind = .compose ∧ ((s n).aperture 0).binding = some { page := 0, ctx := 0 } ∧
      (s n).compose 0 = some (aContext none none n .opened) ∧ (s n).path.hold = false ∧
      (s n).path.waiting = none) ∧
    (aContext none none 0 .opened).window ≠ .truncated ∧ (aContext none none 0 .opened).enc.page < 128 ∧
    (s 0).pageState 0 = .filling ∧ (s 0).requestIs 5 = true ∧ (s 0).argument 1 = 0 ∧
    (aContext none none 0 .opened).queue = [] ∧ (s 1).requestIs 5 = true ∧ (s 1).argument 1 = 0 ∧
    (aContext none none 1 .opened).queue ≠ [] ∧
    (executing (s 0) (.seal 0 [1, 2])).request.executing = some (.seal 0 [1, 2]) :=
  ⟨fun _ => ⟨rfl, rfl, rfl, rfl, rfl⟩, by decide, by decide, by decide +kernel, by decide +kernel, by decide +kernel,
    rfl, by decide +kernel, by decide +kernel, by decide, rfl⟩

/-- A bind of page 127 with 250 References, and an unbind with a read waiting on the view of a DROPPED page. -/
theorem witness_ViewsAreBoundAndUnbound :
    let s := withReferences (withEntry (asked 6 [0, 127] [(0x3000 + 256 * 127, [2])]) rasterEntry) 127 250
    let u := withReferences (withWaiting (viewingEntry [] aView) aCycle (.view 0)) 0 1
    let u := { u with memory := region [(0x400, [7]), (0x3000, [3])], request := { u.request with post := 1 } }
    s.Takes .bindRaster ∧ s.argument 1 = 0 ∧ s.argument 2 = 127 ∧ (s.aperture 0).valid = true ∧
    (s.aperture 0).kind = .raster ∧ (s.aperture 0).binding = none ∧ s.view 0 = none ∧
    s.pageState 127 = .sealed ∧ s.store.taking = true ∧ s.references 127 = 250 ∧
    u.Takes .unbind ∧ u.argument 1 = 0 ∧ (u.aperture 0).kind = .raster ∧
    (u.aperture 0).binding = some { page := 0, ctx := 0 } ∧ u.view 0 = some aView ∧
    aView.dec.page < 128 ∧ u.path.waiting = some { cycle := aCycle, why := .view 0 } ∧
    u.pageState 0 = .dropped ∧ u.references 0 ≤ 1 :=
  ⟨takes_of (by decide +kernel), by decide +kernel, by decide +kernel, by decide +kernel, by decide +kernel,
    by decide +kernel, by decide +kernel, by decide +kernel, rfl, by decide +kernel, takes_of (by decide +kernel),
    by decide +kernel, by decide +kernel, by decide +kernel, by decide +kernel, by decide, rfl, by decide +kernel,
    by decide +kernel⟩

/-- A window of page 0 is unbound while a write waits on it. -/
theorem witness_ViewsAreBoundAndUnbound_compose :
    let s := withWaiting (withReferences (composeAsked 7 (some (aContext none none 0 .opened))) 0 1) aCycle
      (.composeSlot 0)
    s.Takes .unbind ∧ s.argument 1 = 0 ∧ (s.aperture 0).kind = .compose ∧
    (s.aperture 0).binding = some { page := 0, ctx := 0 } ∧
    s.compose 0 = some (aContext none none 0 .opened) ∧ (aContext none none 0 .opened).enc.page < 128 ∧
    s.pageState 0 = .filling ∧ s.request.unread + 3 ≤ 128 ∧
    s.path.waiting = some { cycle := aCycle, why := .composeSlot 0 } :=
  ⟨takes_of (by decide +kernel), by decide +kernel, by decide +kernel, by decide +kernel, rfl, by decide,
    by decide +kernel, by decide +kernel, rfl⟩

/-- A release of a page in a state, with flags and References. -/
def releaseAsked (p state : Nat) (flags : Byte) (n : Nat) : State :=
  withReferences (asked 8 [p] [(0x3000 + 256 * p, [BitVec.ofNat 8 state, 0, 0, flags])]) p n

theorem witness_ReleaseGivesUpTheOwnerReference :
    (releaseAsked 128 0 0 0).Takes .releasePage ∧ (releaseAsked 127 0 0 0).Takes .releasePage ∧
    (releaseAsked 127 2 0 1).Takes .releasePage ∧ (releaseAsked 127 2 0x80 2).Takes .releasePage ∧
    (releaseAsked 127 2 0x80 1).Takes .releasePage ∧ 127 < (releaseAsked 128 0 0 0).argument 1 ∧
    (releaseAsked 127 0 0 0).argument 1 = 127 ∧ (releaseAsked 127 0 0 0).pageState 127 = .free ∧
    (releaseAsked 127 2 0 1).pageState 127 = .sealed ∧ (releaseAsked 127 2 0 1).pageOwned 127 = false ∧
    (releaseAsked 127 2 0x80 2).pageOwned 127 = true ∧ 1 < (releaseAsked 127 2 0x80 2).references 127 ∧
    (releaseAsked 127 2 0x80 1).references 127 ≤ 1 :=
  ⟨takes_of (by decide +kernel), takes_of (by decide +kernel), takes_of (by decide +kernel),
    takes_of (by decide +kernel), takes_of (by decide +kernel), by decide +kernel, by decide +kernel,
    by decide +kernel, by decide +kernel,
    by decide +kernel, by decide +kernel, by decide +kernel, by decide +kernel⟩

/-- With no window and no view, only the room on the Free Leaf Stack is asked. -/
theorem bounded_of {s : State} (hc : ∀ i, s.compose i = none) (hv : ∀ i, s.view i = none)
    (hs : ∀ p, p < 128 → s.store.depth + (s.chainOf p).length ≤ 4096) : s.StoreBounded :=
  ⟨fun i _ h => absurd ((hc i).symm.trans h) (by simp), fun i _ h => absurd ((hv i).symm.trans h) (by simp), hs⟩

/-- A RUNNING part with 33 free Leaves and page 0 with one Leaf, in a state. -/
def leafed (state : Byte) : State :=
  { storing 33 false with memory := region [(0x3000, [state]), (0x3010, [1])] }

/-- A page given a Leaf at one above the Receive Reserve, one freed; a release where every count is its holders'. -/
theorem witness_ReleaseGivesUpTheOwnerReference_accounts :
    (leafed 1).leavesOf 0 < 65535 ∧ ((leafed 1).allocate 0).isSome = true ∧
    (leafed 2).pageState 0 ≠ .free ∧ ((leafed 2).chainOf 0).length = (leafed 2).leavesOf 0 ∧
    (releaseAsked 127 2 0x80 1).StoreBounded ∧
    (∀ p, p < 128 → (releaseAsked 127 2 0x80 1).references p = (releaseAsked 127 2 0x80 1).holders p) ∧
    ∃ t, exec .releasePage (releaseAsked 127 2 0x80 1) = .next t :=
  ⟨by decide +kernel, by decide +kernel, by decide +kernel, by decide +kernel,
    bounded_of (by decide) (by decide) (by decide +kernel), by decide +kernel, _, rfl⟩

/-! ### Jobs, looks and charges -/

/-- The host half of job 0: desk 0, one attempt, gap 1, one page, the destinations given; page 0. -/
def jobPieces (destinations : Nat) : List (Nat × List Byte) :=
  [(0xF000, leBytes 4 (15 * 64 + 1024 + 16384 + 2 ^ 20 + destinations * 2 ^ 26))]

/-- A destination of job 0 with the number 12, in a state. -/
def destinationPieces (d state : Nat) : List (Nat × List Byte) :=
  [(0x10000 + 32 * d, 0x12 :: List.replicate 11 0xFF ++ [0, 0, 0, 0, BitVec.ofNat 8 state])]

/-- The Tariff Table: its first entry takes every number to zone 0. -/
def tariff : List (Nat × List Byte) := [(0x2000, [1, 0, 0, 0])]

/-- A job with one destination is submitted, its page SEALED with 250 References. -/
def submitAsked : State :=
  withReferences (asked 9 [0] ([(0x3000, [2])] ++ jobPieces 1 ++ destinationPieces 0 0 ++ tariff)) 0 250

/-- A job with one destination is cancelled, its page held twice. -/
def cancelAsked : State :=
  withReferences (asked 10 [0] ([(0x3000, [2]), (0xF200, [1])] ++ jobPieces 1 ++ destinationPieces 0 0)) 0 2

/-- A RUNNING part with one QUEUED job and line 0 able to call. -/
def looking (destinations : Nat) : State :=
  let s := running (region ([(0x3000, [2]), (0xF200, [1])] ++ jobPieces destinations
    ++ (List.range destinations).flatMap (fun d => destinationPieces d 0) ++ tariff))
  let s := { s with dispatcher := { s.dispatcher with submitList := [0], lookPending := true } }
  s.setLine 0 { s.line 0 with held := { (s.line 0).held with direction := .both } }

end Sys2Proof.Tests

namespace Sys2Proof.Tests

open Sys2Proof.Machine

/-- A part in PASS with one Leaf: page 0 SEALED, job 0 QUEUED with page 0 and a call in progress, slot 31
PRINTING page 0; the Receive Reserve is 0. -/
def keepable : State :=
  { State.reset with
    store := { State.reset.store with receiveReserve := 0 }
    memory := region ([(0x40, [1]), (0x3000, [2, 0, 1, 0x80, 0, 0, 3]), (0x300C, [0xFF, 0xFF, 0xFF, 0xFF]),
      (0xF200, [1]), (0x10010, [1]), (0x1800 + 16 * 31, [2, 0, 2, 1])] ++ jobPieces 1) }

/-- The state in which a START KEEP has just been written. -/
def keepWritten (s : State) : State := s.wordWritten 0x00 2 0xF

theorem start_keepable : StartWrite keepable true sup (keepWritten keepable) :=
  ⟨⟨rfl, rfl, rfl⟩, rfl, rfl, rfl, rfl, by decide, by decide +kernel, by decide +kernel, by decide +kernel⟩

theorem keepable_page : holds (exec (.startKeep false sup) keepable) (fun t => t.pageState 0 == .sealed) = true := by
  decide +kernel

/-- Page 0 is kept, with the job that lists it and the item in slot 31. -/
theorem witness_StartKeepAccountsForEveryLeaf_kept :
    StartWrite keepable true sup (keepWritten keepable) ∧ keepable.path.state = .pass ∧
    holds (exec (.startKeep false sup) keepable) (fun t => t.pageState 0 == .sealed) = true ∧
    ((keepWritten keepable).job 0).state = .queued ∧ ((keepWritten keepable).job 0).cancelling = false ∧
    (keepWritten keepable).jobPages 0 = [0] ∧ (keepWritten keepable).pageState 0 = .sealed ∧
    (keepWritten keepable).jobDestinations 0 = 1 ∧ ((keepWritten keepable).destination 0 0).state = .calling ∧
    ((keepWritten keepable).slot 31).state = some .printing ∧ ((keepWritten keepable).slot 31).page = 0 ∧
    ((keepWritten keepable).slot 31).copies = 2 ∧ ((keepWritten keepable).slot 31).copiesDone = 1 :=
  ⟨start_keepable, rfl, keepable_page, by decide +kernel⟩

/-- A part in PASS: job 0 QUEUED with page 0, which is FILLING, a call in progress and one SENT; slot 0 with
page 0; desk 31 at its cap with a markup above 999. -/
def losing : State :=
  { State.reset with memory := region ([(0x40, [1]), (0x3000, [1]), (0xF200, [1, 1]), (0x1800, [1, 0, 1, 0]),
      (0x1400 + 32 * 31, [0, 0, 0x60, 0, 0, 0, 0x60, 0, 0xE8, 3])]
    ++ jobPieces 2 ++ destinationPieces 0 1 ++ destinationPieces 1 2) }

/-- The page of a job and of an item is lost; a job is CANCELLING, and one is not QUEUED; a slot is EMPTY. -/
theorem witness_StartKeepAccountsForEveryLeaf_lost : StartWrite losing true sup (keepWritten losing) ∧
    losing.path.state = .pass ∧ ((keepWritten losing).job 0).state = .queued ∧
    ((keepWritten losing).job 15).state ≠ .queued ∧ ((keepWritten losing).job 0).cancelling = true ∧
    (keepWritten losing).jobPages 0 = [0] ∧ (keepWritten losing).pageState 0 = .filling ∧
    ((keepWritten losing).destination 0 0).state = .calling ∧
    ((keepWritten losing).destination 0 1).state = .sent ∧ (keepWritten losing).jobDestinations 0 = 2 ∧
    ((keepWritten losing).slot 0).state = some .waiting ∧ ((keepWritten losing).slot 0).page = 0 ∧
    ((keepWritten losing).slot 31).state = some .empty ∧
    (keepWritten losing).deskCap 31 = (keepWritten losing).deskTotal 31 ∧
    (keepWritten losing).valueAt (0x1400 + 32 * 31 + 8) 2 = 1000 :=
  ⟨⟨⟨rfl, rfl, rfl⟩, rfl, rfl, rfl, rfl, by decide, by decide +kernel, by decide +kernel, by decide +kernel⟩, rfl,
    by decide +kernel⟩

/-- A part in PASS: job 0 QUEUED with page 0, which is SEALED with no Leaf and yet has a first Leaf; the Receive
Reserve is 0. -/
def broken : State :=
  { State.reset with
    store := { State.reset.store with receiveReserve := 0 }
    memory := region ([(0x40, [1]), (0x3000, [2, 0, 1, 0x80, 0, 0, 1]), (0x300C, [0, 0, 0, 0]), (0xF200, [1])]
      ++ jobPieces 1 ++ destinationPieces 0 0) }

/-- The state in which a START KEEP written in PASS has walked the Page Directory. -/
def walked (s : State) : State := (keepWritten s).startActions.reloadLines.beginWork.keepStore

/-- A FILLING page, and a SEALED page whose chain fails, are discarded: the walk leaves their records FREE, and what
follows it writes no record that is not SEALED. -/
theorem witness_StartKeepAccountsForEveryLeaf_broken : StartWrite broken true sup (keepWritten broken) ∧
    broken.path.state = .pass ∧ ((keepWritten broken).job 0).state = .queued ∧
    (keepWritten broken).jobPages 0 = [0] ∧ (keepWritten broken).pageState 0 = .sealed ∧
    (keepWritten broken).valueAt 0x3000 1 ≠ 0 ∧ (keepWritten losing).valueAt 0x3000 1 ≠ 0 ∧
    ((keepWritten broken).destination 0 0).state = .pending ∧ (walked broken).pageState 0 = .free ∧
    (walked losing).pageState 0 = .free :=
  ⟨⟨⟨rfl, rfl, rfl⟩, rfl, rfl, rfl, rfl, by decide, by decide +kernel, by decide +kernel, by decide +kernel⟩, rfl,
    by decide +kernel⟩

theorem job_within : submitAsked.JobWithin 0 :=
  ⟨by decide +kernel, by decide +kernel, by decide +kernel, by decide +kernel, by decide +kernel⟩

theorem witness_SubmittedJobsAreQueued :
    submitAsked.Takes .submitSend ∧ submitAsked.store.taking = true ∧ submitAsked.argument 1 = 0 ∧
    (submitAsked.job 0).state ≠ .queued ∧ submitAsked.JobWithin 0 ∧
    (∀ p ∈ submitAsked.jobPages 0, submitAsked.pageState p = .sealed ∧
      submitAsked.references p + (submitAsked.jobPages 0).count p ≤ 251) ∧
    submitAsked.jobDestinations 0 = 1 ∧ hasDigit (submitAsked.number 0 0) = true ∧
    submitAsked.tariffSearch (submitAsked.number 0 0) = some (0, false) :=
  ⟨takes_of (by decide +kernel), rfl, by decide +kernel, by decide +kernel, job_within, by decide +kernel,
    by decide +kernel, by decide +kernel, by decide +kernel⟩

theorem witness_CancelledJobsAreDone :
    cancelAsked.Takes .cancelSend ∧ cancelAsked.charge.orders = [] ∧ cancelAsked.argument 1 = 0 ∧
    (cancelAsked.job 0).state = .queued ∧ (cancelAsked.job 0).cancelling = false ∧
    cancelAsked.jobDestinations 0 = 1 ∧ (cancelAsked.destination 0 0).state ≠ .calling ∧
    ∀ p ∈ cancelAsked.jobPages 0, (cancelAsked.jobPages 0).count p < cancelAsked.references p :=
  ⟨takes_of (by decide +kernel), rfl, by decide +kernel, by decide +kernel, by decide +kernel, by decide +kernel,
    by decide +kernel, by decide +kernel⟩

/-- Job 0, whose destination 0 is in a call on line 0 and whose destination 1 is PENDING, is cancelled. -/
def cancelCalling (x : LineChannel) : State :=
  let s := withReferences (asked 10 [0] ([(0x3000, [2]), (0xF200, [1])] ++ jobPieces 2 ++ destinationPieces 0 1
    ++ destinationPieces 1 0)) 0 2
  (s.setLine 0 x).setMeter 0 { Meter.cleared with active := true }

/-- A caller on line 0 in a state, to destination 0 of job 0, with its link state or none. -/
def callerIn (st : LineState) (k : Option Link) : LineChannel :=
  { LineChannel.reset with
    state := st, offHook := true, link := k
    call := some { out := some { job := 0, destination := 0, desk := 0, resume := 0, startRate := 4
                                 number := [0, 1, 7, 1, 14] ++ List.replicate 19 15 }
                   config := .empty, dialled := 0, breaks := 0, rings := 0, seizure := .zero, connect := none,
                   outcome := none } }

/-- The call that a caller's line holds. -/
def heldCall (x : LineChannel) : Call := x.call.getD (Call.mk none .empty 0 0 0 .zero none none)

/-- A call before LINKED and one that is LINKED. -/
theorem witness_CancelledJobsAreDone_call :
    let k := Link.start .awaitOffer (some 4)
    let x := callerIn .seized none
    (∀ y, (cancelCalling y).charge.orders = [] ∧ (cancelCalling y).line 0 = y) ∧
    (cancelCalling x).Takes .cancelSend ∧ (cancelCalling (callerIn .linked (some k))).Takes .cancelSend ∧
    (cancelCalling x).argument 1 = 0 ∧ ((cancelCalling x).job 0).state = .queued ∧
    ((cancelCalling x).job 0).cancelling = false ∧ (cancelCalling x).jobDestinations 0 = 2 ∧
    (∀ p ∈ (cancelCalling x).jobPages 0, ((cancelCalling x).jobPages 0).count p < (cancelCalling x).references p) ∧
    (∀ d, d < 2 → (((cancelCalling x).destination 0 d).state = .calling ↔ d = 0)) ∧
    ((cancelCalling x).destination 0 0).line = 0 ∧ x.call = some (heldCall x) ∧
    ((heldCall x).out.map (fun f => (f.job, f.destination))) = some (0, 0) ∧
    ((cancelCalling x).meterOf 0).desk < 32 ∧ (cancelCalling x).deskCap 0 = 0 ∧ x.state = .seized ∧ x.link = none ∧
    (callerIn .linked (some k)).link = some k ∧ k.sending = none ∧
    (callerIn .linked (some k)).pump.sending = none :=
  ⟨fun _ => ⟨rfl, rfl⟩, takes_of (by decide +kernel), takes_of (by decide +kernel), by decide +kernel,
    by decide +kernel, by decide +kernel, by decide +kernel, by decide +kernel, by decide +kernel,
    by decide +kernel, rfl, rfl, by decide +kernel, by decide +kernel, rfl, rfl, rfl, rfl, rfl⟩

/-- Destination 0 of job 0 may be dialled, and with no job none; line 0 may be taken with an Incoming Reserve of 3,
and held IN it may not. -/
theorem witness_LookSeizesALine_choice :
    let jobless := { looking 1 with dispatcher := { (looking 1).dispatcher with submitList := [] } }
    let reserved := { looking 1 with dispatcher := { (looking 1).dispatcher with incomingReserve := 3 } }
    let incoming := (looking 1).setLine 0 LineChannel.reset
    (looking 1).FirstDue 0 0 ∧ jobless.dispatcher.submitList = [] ∧ reserved.mayTake 0 ∧
    ∀ l, ¬ incoming.mayTake l := by
  refine ⟨⟨by decide +kernel, ⟨by decide +kernel, by decide +kernel, ?_, by decide +kernel, by decide +kernel,
    by decide +kernel⟩, ?_⟩, rfl, by unfold State.mayTake; decide +kernel, by unfold State.mayTake; decide +kernel⟩
  · intro l c f h
    have : ∀ l : LineNo, ((looking 1).line l).call = none := by decide
    exact absurd (h.symm.trans (this l)) (by simp)
  · intro k e hk he _ _ hne
    have h1 : (looking 1).jobDestinations 0 = 1 := by decide +kernel
    have hk0 : k = 0 := List.mem_singleton.mp hk
    subst hk0
    rw [h1] at he
    exact absurd (show ((0 : Nat), e) = (0, 0) by rw [show e = 0 by omega]) hne

/-- A look with a destination and a line to choose, and one of a part with no job. -/
theorem witness_LookSeizesALine :
    (looking 1).isRunning = true ∧ (looking 1).dispatcher.lookPending = true ∧ (looking 1).path.hold = false ∧
    (looking 1).charge.orders = [] ∧ (looking 1).chosenDestination = some (0, 0) ∧
    (looking 1).chosenLine = some 0 ∧ (looking 0).isRunning = true ∧ (looking 0).dispatcher.lookPending = true ∧
    (looking 0).chosenDestination = none :=
  ⟨rfl, rfl, rfl, rfl, by decide +kernel, by decide +kernel, rfl, rfl, by decide +kernel⟩

/-- Settle the desk 31 with a cap of 60.00, the total being one below or at it, OPEN or CAPPED. -/
def settleAsked (total : List Byte) (capped : Bool) : State :=
  let s := asked 13 [31, 0x00600000, 999, 0] [(0x1400 + 32 * 31, total)]
  s.setDesk 31 { capped := capped, markup := 0 }

theorem witness_SettledDesksAreSetAfresh :
    let t := fun s : State => (s.argument 1, nibbles (s.argumentBytes 2), s.argument 3, s.argument 4, s.deskTotal 31)
    (settleAsked [0, 0, 0x59, 0x99] false).Takes .settleDesk ∧
    (settleAsked [0, 0, 0x59, 0x99] false).charge.orders = [] ∧
    t (settleAsked [0, 0, 0x59, 0x99] false) = (31, [0, 0, 0, 0, 6, 0, 0, 0], 999, 0, 5999) ∧
    (settleAsked [0, 0, 0x60, 0x00] true).Takes .settleDesk ∧
    t (settleAsked [0, 0, 0x60, 0x00] true) = (31, [0, 0, 0, 0, 6, 0, 0, 0], 999, 0, 6000) ∧
    ((settleAsked [0, 0, 0x60, 0x00] true).desk 31).capped = true ∧ 999 ≤ 999 ∧
    (settleAsked [0, 0, 0x60, 0x00] false).Takes .settleDesk ∧
    t (settleAsked [0, 0, 0x60, 0x00] false) = (31, [0, 0, 0, 0, 6, 0, 0, 0], 999, 0, 6000) ∧
    ((settleAsked [0, 0, 0x60, 0x00] false).desk 31).capped = false ∧
    (settleAsked [0, 0, 0x60, 0x00] false).request.unread + 2 ≤ 128 ∧
    ∀ l, ((settleAsked [0, 0, 0x60, 0x00] false).meterOf l).active = false :=
  ⟨takes_of (by decide +kernel), rfl, by decide +kernel, takes_of (by decide +kernel), by decide +kernel,
    by decide +kernel, by decide, takes_of (by decide +kernel), by decide +kernel, by decide +kernel,
    by decide +kernel, by decide +kernel⟩

/-! ### Lines in a call -/

/-- The facts of the call to destination 0 of job 0. -/
def facts : OutgoingFacts :=
  { job := 0, destination := 0, desk := 0, number := [0, 1, 7, 1, 14] ++ List.replicate 19 15, resume := 0,
    startRate := 4 }

/-- Section 7.8's line: PULSE, prefix 9 C, BLIND, answer rings 3, supervision REVERSAL. -/
def pulseLine : LineConfig :=
  { direction := .both, pulse := true, dialPrefix := [9, 12], blind := true, answerRings := 3, answerSeconds := 45,
    reversalSupervision := true, chargePulses := false, pulsePrice := 0 }

/-- A line that answers at the first ring and waits for dial tone. -/
def toneLine : LineConfig :=
  { pulseLine with pulse := false, dialPrefix := [], blind := false, answerRings := 1 }

/-- A call with its configuration and the nibbles it has finished. -/
def aCall (out : Option OutgoingFacts) (c : LineConfig) (dialled : Nat) : Call :=
  { out := out, config := c, dialled := dialled, breaks := 0, rings := 0, seizure := .zero, connect := none,
    outcome := none }

/-- A Line Channel off hook in a state, with a call, a timer and a link state. -/
def aLine (st : LineState) (c : Call) (t : Option TimerKind) (k : Option Link) : LineChannel :=
  { LineChannel.reset with
    state := st, offHook := true, held := c.config, call := some c, link := k
    timer := t.map (fun kind => { kind := kind, ms := 1 }) }

/-- A RUNNING part with job 0 QUEUED, destination 0 CALLING, destination 1 PENDING, page 0 SEALED with two
lines, line 0 as given and its meter active. -/
def calling (x : LineChannel) : State :=
  let s := running (region ([(0x3000, [2, 0, 0, 0x80, 2, 0]), (0xF200, [1])] ++ jobPieces 2 ++ destinationPieces 0 1
    ++ destinationPieces 1 0 ++ tariff))
  let s := withReferences s 0 3
  (s.setLine 0 x).setMeter 0 { Meter.cleared with active := true }

theorem quiet_calling (x : LineChannel) : (calling x).Quiet := ⟨rfl, rfl⟩
theorem line_calling (x : LineChannel) : (calling x).line 0 = x := rfl
theorem link_calling (c : Call) (t : Option TimerKind) (k : Link) :
    (calling (aLine .linked c t (some k))).LinkedWith 0 c k := ⟨⟨rfl, rfl⟩, rfl, rfl, rfl⟩

/-- The calling part with its LN0 context. -/
def coding_ (s : State) (n : LineContext) : State := s.setLn 0 (some n)

/-- Pulses at 65534 and 65535; a unit due now; an ALERTING line with REVERSAL supervision. -/
theorem witness_MetersCountPulsesAndUnits :
    let s := calling (aLine .alerting (aCall (some facts) pulseLine 6) (some .answer) none)
    s.path.hold = false ∧ s.charge.orders = [] ∧ (s.line 0).call = some (aCall (some facts) pulseLine 6) ∧
    (s.meterOf 0).active = true ∧ s.deskCap (s.meterOf 0).desk = 0 ∧
    ((s.setMeter 0 { Meter.cleared with pulses := 65534 }).meterOf 0).pulses < 65535 ∧
    ((s.setMeter 0 { Meter.cleared with pulses := 65535 }).meterOf 0).pulses = 65535 ∧
    ((s.setMeter 0 { Meter.cleared with nextUnit := some 0 }).meterOf 0).nextUnit = some 0 ∧
    (s.time.runClock - 0).toNat < 2 ^ 31 ∧ (s.line 0).state = .alerting ∧
    pulseLine.reversalSupervision = true ∧ (aCall (some facts) pulseLine 6).connect = none ∧
    (s.meterOf 0).connect = none :=
  ⟨rfl, rfl, rfl, rfl, by decide +kernel, by decide +kernel, by decide +kernel, by decide +kernel, by decide +kernel,
    rfl, rfl, rfl, rfl⟩

/-- A call of a desk whose cap of 0.001 the next pulse reaches. -/
def nearCap (x : LineChannel) (inPage : Bool) : State :=
  let s := calling x
  { s with memory := s.memory.write 0x7C1404 [0, 0, 0, 1] }.setMeter 0 { Meter.cleared with
    active := true, chargePulses := true, pulsePrice := 10, pageInProgress := inPage }

/-- The cap reached ALERTING, LINKED in a page and between pages, and CLEARING. -/
theorem witness_MetersCountPulsesAndUnits_cap :
    let alerting := aLine .alerting (aCall (some facts) pulseLine 6) (some .answer) none
    let linked := aLine .linked (aCall (some facts) pulseLine 6) none (some (Link.start .awaitOffer (some 4)))
    let clearing := aLine .clearing (aCall (some facts) pulseLine 6) (some .farewell) none
    (∀ x b, (nearCap x b).path.hold = false ∧ (nearCap x b).charge.orders = [] ∧ (nearCap x b).line 0 = x ∧
      ((nearCap x b).meterOf 0).active = true ∧ ((nearCap x b).meterOf 0).pulses = 0 ∧
      ((nearCap x b).meterOf 0).chargePulses = true ∧ ((nearCap x b).meterOf 0).pulsePrice = 10 ∧
      ((nearCap x b).meterOf 0).pageInProgress = b) ∧
    ((nearCap alerting false).desk 0).capped = false ∧ (nearCap alerting false).deskCap 0 = 1 ∧
    1 ≤ (nearCap alerting false).deskTotal 0 + (10 * (1000 + ((nearCap alerting false).desk 0).markup) + 5000) / 10000 ∧
    (∀ k, k ≠ (0 : LineNo) → ((nearCap alerting false).meterOf k).active = false) ∧
    (nearCap alerting false).path.state ≠ .pass ∧ (nearCap alerting false).request.unread + 1 ≤ 128 ∧
    alerting.state = .alerting ∧ alerting.link = none ∧ linked.state = .linked ∧ linked.pump.sending = none ∧
    clearing.state = .clearing ∧ facts.destination < (nearCap alerting false).jobDestinations facts.job ∧
    ((nearCap alerting false).job facts.job).cancelling = false :=
  ⟨fun _ _ => ⟨rfl, rfl, rfl, rfl, rfl, rfl, rfl, rfl⟩, by decide +kernel⟩

theorem witness_LineRecordsAreKeptUpToDate :
    (∀ l f, ((calling (aLine .seized (aCall (some facts) pulseLine 0) none none)).line l).outgoing = some f →
      f.number.length = 24) ∧
    (calling (aLine .seized (aCall (some facts) pulseLine 0) none none)).path.state ≠ .pass ∧
    State.reset.path.state = .pass ∧ sequenced.path.hold = true := by
  refine ⟨?_, by decide, rfl, rfl⟩
  have h : ∀ l : LineNo, ((calling (aLine .seized (aCall (some facts) pulseLine 0) none none)).line l).outgoing
      = if l = 0 then some facts else none := by decide +kernel
  intro l f hf
  rw [h] at hf
  split at hf
  · cases hf; rfl
  · cases hf

/-- Section 10.2: the billed charges of Table 10.2. -/
theorem test_billed : billed 485 120 = 54 ∧ billed 125 0 = 13 ∧ billed 124 0 = 12 ∧ billed 320 250 = 40 ∧
    billed 99999999 999 = 19990000 := by decide

/-- Section 10.4: zone 5 in band 1, setup 0.150, unit 0.085 per 30.0 s; band 2 0.040 per 60.0 s. -/
def metered (weekday tenths : Nat) (run : BitVec 32) (m : Meter) : State :=
  let s := running (region [(0x1B00 + 160, [0x00, 0x01, 0x50]), (0x1B00 + 168, [0x00, 0x85, 0x03, 0x00]),
    (0x1B00 + 172, [0x00, 0x40, 0x06, 0x00]), (0x1D00 + 131, [1, 2])])
  let s := { s with time := { runClock := run, weekday := weekday, tenths := tenths } }
  (s.setLine 0 (aLine .alerting (aCall (some facts) pulseLine 6) none none)).setMeter 0 m

/-- Section 10.4, first row: the connect mark at 17:58:40 on weekday 2 leaves 0.235 and the next unit at 40030.0. -/
theorem test_connect_meters :
    holds (exec (.reversal 0) (metered 2 647200 400000 { Meter.cleared with active := true, zone := 5 }))
      (fun t => (t.meterOf 0).localRaw == 235 && (t.meterOf 0).units == 1 && (t.meterOf 0).nextUnit == some 400300)
      = true := by decide +kernel

/-- Section 10.4, fourth row: the unit that starts at 18:00:10 is priced by band 2. -/
theorem test_unit_evening :
    holds (exec (.unitExpiry 0) (metered 2 648100 400900
      { Meter.cleared with active := true, zone := 5, localRaw := 405, units := 3, nextUnit := some 400900 }))
      (fun t => (t.meterOf 0).localRaw == 445 && (t.meterOf 0).nextUnit == some 401500) = true := by decide +kernel

/-! ### Printing -/

/-- A print request of page 127 with copies. -/
def printAsked (kind : Nat) (args : List Nat) (pieces : List (Nat × List Byte)) (st : PrintState) : State :=
  let s := asked kind args ([(0x3000 + 256 * 127, [2, 0, 0, 0, 5, 0])] ++ pieces)
  let s := withReferences s 127 250
  { s with print := { s.print with state := st, current := if st = .printing then some 31 else none } }

/-- Page 127 with 250 References and 99 copies; slot 31 WAITING and PRINTING. -/
theorem witness_PrintRequests :
    let s := printAsked 11 [127, 99, 1] [] .idle
    let u := fun st => printAsked 12 [31] [(0x1800 + 16 * 31, [BitVec.ofNat 8 st, 127, 1, 0])] .printing
    s.Takes .printPage ∧ s.store.taking = true ∧ s.argument 1 = 127 ∧ s.argument 2 = 99 ∧
    s.pageState 127 = .sealed ∧ s.references 127 = 250 ∧ (s.slot 0).state = some .empty ∧
    s.print.state = .idle ∧ s.waitingSlots = [] ∧ s.pageLines 127 ≠ 0 ∧
    (u 1).Takes .cancelPrint ∧ (u 2).Takes .cancelPrint ∧ (u 1).argument 1 = 31 ∧
    ((u 1).slot 31).cancelled = false ∧ ((u 1).slot 31).state = some .waiting ∧ ((u 1).slot 31).page < 128 ∧
    ((u 2).slot 31).cancelled = false ∧ ((u 2).slot 31).state = some .printing ∧ (u 2).print.buffer = none :=
  ⟨takes_of (by decide +kernel), rfl, by decide +kernel, by decide +kernel, by decide +kernel, by decide +kernel,
    by decide +kernel, rfl, by decide +kernel, by decide +kernel, takes_of (by decide +kernel),
    takes_of (by decide +kernel), by decide +kernel, by decide +kernel, by decide +kernel, by decide +kernel,
    by decide +kernel, by decide +kernel, rfl⟩

/-- A part that prints slot 31, page 0 of one line, with copies and copies done. -/
def printing (st : PrintState) (copies done : Byte) (buffer : Option Raster) (paper : Bool) : State :=
  let s := running (region [(0x3000, [2, 0, 0, 0, 1, 0]), (0x1800 + 16 * 31, [2, 0, copies, done])])
  { s with
    print := { s.print with state := st, current := some 31, buffer := buffer, paper := paper }
    engine := { s.engine with pr := some aView.dec } }

/-- A part with its head in a state and no copy in hand. -/
def head (st : PrintState) (paper : Bool) : State :=
  let s := running []
  { s with print := { s.print with state := st, paper := paper } }

theorem witness_CopiesAreBurntAndCut :
    (printing .printing 1 0 none true).path.hold = false ∧
    (printing .printing 1 0 none true).engineChoice = some (2, .pr) ∧
    (printing .printing 1 0 none true).engine.pr = some aView.dec ∧
    (printing .printing 1 0 (some 5) true).print.current = some 31 ∧
    ((printing .printing 1 0 (some 5) true).slot 31).cancelled = false ∧
    (printing .cutting 1 0 none true).print.state = .cutting ∧
    ((printing .cutting 1 0 none true).slot 31).page < 128 ∧
    ((printing .cutting 1 0 none true).slot 31).copies ≤ ((printing .cutting 1 0 none true).slot 31).copiesDone + 1 ∧
    (printing .cutting 1 0 none true).waitingSlots = [] ∧
    ((printing .cutting 99 97 none false).slot 31).copiesDone + 1
      < ((printing .cutting 99 97 none false).slot 31).copies ∧
    (printing .cutting 99 97 none false).print.paper = false ∧
    (printing .printing 1 0 none true).isRunning = true ∧ (head .idle true).print.paper = true ∧
    (head .idle true).isRunning = true ∧ (head .paperWait false).waitingSlots = [] ∧
    (head .paperWait false).print.paper = false ∧ (head .cutting false).print.state ≠ .paperWait := by
  decide +kernel

/-- Slot 31 prints page 0, which two holders keep, and slot 0 waits for page 1, as its bytes say. -/
def queued (copies done : Byte) (waiting : List Byte) : State :=
  let s := withReferences (printing .cutting copies done none true) 0 2
  { s with memory := (s.memory.write 0x7C1800 waiting).write 0x7C3100 [2, 0, 0, 0, 3, 0] }

/-- The head of the queue waits for paper, which is out. -/
def headWaits : State :=
  { head .paperWait false with memory := region [(0x3000, [2, 0, 0, 0, 1, 0]), (0x1800 + 16 * 31, [1, 0, 1, 0])] }

theorem heads : (queued 2 1 [1, 1, 1]).HeadIs 0 ∧ (queued 3 1 [1, 1, 1, 0, 1]).HeadIs 0 ∧ headWaits.HeadIs 31 :=
  ⟨⟨by decide +kernel, by unfold State.leads; decide +kernel⟩,
    ⟨by decide +kernel, by unfold State.leads; decide +kernel⟩,
    ⟨by decide +kernel, by unfold State.leads; decide +kernel⟩⟩

/-- The last copy cut with an item waiting; a copy left, the item leading the queue and led by an URGENT one; paper
returning to a waiting head; a through-print and its end. -/
theorem witness_CopiesAreBurntAndCut_queue :
    let through := fun ended => { head .through true with
      print := { (head .through true).print with owner := some 0, buffer := some 5, throughEnded := ended } }
    (∀ c d w, (queued c d w).path.hold = false ∧ (queued c d w).print.state = .cutting ∧
      (queued c d w).print.current = some 31 ∧ (queued c d w).print.paper = true ∧
      (queued c d w).isRunning = true ∧ (queued c d w).path.state ≠ .pass ∧
      (queued c d w).request.unread + 2 ≤ 128) ∧
    (queued 2 1 [1, 1, 1]).HeadIs 0 ∧ (queued 3 1 [1, 1, 1, 0, 1]).HeadIs 0 ∧ headWaits.HeadIs 31 ∧
    (queued 3 1 [1, 1, 1, 0, 1]).leads 0 31 ∧
    (∀ m, m < 32 → ((queued 3 1 [1, 1, 1, 0, 0, 0, 0, 0, 9]).slot m).state = some .waiting →
      (queued 3 1 [1, 1, 1, 0, 0, 0, 0, 0, 9]).leads 31 m) ∧
    ((queued 2 1 [1, 1, 1]).slot 31).copies ≤ ((queued 2 1 [1, 1, 1]).slot 31).copiesDone + 1 ∧
    ((queued 3 1 [1, 1, 1]).slot 31).copiesDone + 1 < ((queued 3 1 [1, 1, 1]).slot 31).copies ∧
    ((queued 2 1 [1, 1, 1]).slot 31).state = some .printing ∧ 2 ≤ (queued 2 1 [1, 1, 1]).references 0 ∧
    (queued 2 1 [1, 1, 1]).pageState 1 = .sealed ∧ (queued 2 1 [1, 1, 1]).pageState 0 = .sealed ∧
    ((queued 2 1 [1, 1, 1]).slot 0).page = 1 ∧ ((queued 2 1 [1, 1, 1]).slot 31).page = 0 ∧
    headWaits.print.state = .paperWait ∧ headWaits.print.paper = false ∧ headWaits.isRunning = true ∧
    headWaits.path.hold = false ∧ headWaits.pageState (headWaits.slot 31).page ≠ .dropped ∧
    (∀ b, (through b).print.state = .through ∧ (through b).print.throughEnded = b ∧
      (through b).print.buffer = some 5 ∧ (through b).print.owner = some 0 ∧ (through b).print.paper = true) := by
  refine ⟨fun c d w => ⟨rfl, rfl, rfl, rfl, rfl, ?_, ?_⟩, heads.1, heads.2.1, heads.2.2,
    by unfold State.leads; decide +kernel, by unfold State.leads; decide +kernel, by decide +kernel, by decide +kernel,
    by decide +kernel, by decide +kernel, by decide +kernel, by decide +kernel, by decide +kernel, by decide +kernel,
    rfl, rfl, rfl, rfl, by decide +kernel, fun _ => ⟨rfl, rfl, rfl, rfl, rfl⟩⟩
  · show PathState.running ≠ .pass; decide
  · rw [show (queued c d w).request = State.reset.request from rfl]; decide +kernel

/-- R177: pixel 0 goes to Chain A and pixel 1 to Chain B, each first. -/
theorem test_chains :
    holds (exec .printLineDone (printing .printing 1 0 (some (BitVec.ofNat 1792 (2 ^ 1790))) true))
      (fun t => t.print.chainA == 0 && t.print.chainB.getMsbD 0) = true := by decide +kernel

/-- R176: a line of a DRAFT page is shifted, strobed chain by chain and stepped, and that once more. -/
theorem test_draft_line :
    holds (exec .printLineDone (printing .printing 1 0 (some 5) true))
      (fun t => t.print.lineActs == [.shift, .strobeA, .strobeB, .step, .shift, .strobeA, .strobeB, .step])
      = true := by decide +kernel

/-! ### Line coding -/

/-- A line of runs, white first. -/
def runsLine (runs : List Nat) : Raster :=
  BitVec.ofNat 1792 ((runs.foldl (fun (a : Nat × Nat) r => (a.1 * 2 ^ r + a.2 * (2 ^ r - 1), 1 - a.2)) (0, 0)).1)

/-- Section 4.1: the Length Word of 20 is 0000 10101; zeros bits of 0 and 1792. -/
theorem witness_LengthWordsNameTheirRuns :
    lengthWord 20 = [false, false, false, false, true, false, true, false, true] ∧
    (lengthWord 0).length = 1 ∧ (lengthWord 1792).length = 21 ∧ 2 ^ 10 ≤ 2047 ∧ 2047 < 2 ^ 11 := by decide

/-- Section 4.7: line 127 is DIRECT in 44 bits, and line 128 is 44 bits DIRECT and 39 DIFFERENCE. -/
theorem test_coding_example :
    let l126 := runsLine [110, 20, 1662]
    let l127 := runsLine [100, 20, 1672]
    let l128 := runsLine [100, 22, 1670]
    (differenceForm l127 l126).length = 57 ∧ codeLine (.reference 8) false l127 l126 = ⟨directForm l127, true⟩ ∧
    (directForm l127).length = 44 ∧ (directForm l128).length = 44 ∧ (differenceForm l128 l127).length = 39 := by
  decide +kernel

/-- The usual check value of the CRC of R68: 0x29B1 over the bytes "123456789". -/
theorem test_check : checkBytes [0x31, 0x32, 0x33, 0x34, 0x35, 0x36, 0x37, 0x38, 0x39] = [0x29, 0xB1] := by
  decide +kernel

end Sys2Proof.Tests

namespace Sys2Proof.Tests

open Sys2Proof.Machine

/-! ### Dialling and the ends of calls -/

/-- A pulse call after a count of nibbles. -/
def pulseCall (dialled breaks : Nat) : Call := { aCall (some facts) pulseLine dialled with breaks := breaks }

/-- Section 7.8: the nibbles in order; a part in each wait that lets the line dial on. -/
theorem witness_NumbersAreDialled :
    let s := fun st (n : Nat) t => calling (aLine st (pulseCall n 0) (some t) none)
    let nibbles := pulseLine.dialPrefix ++ dialledPart facts.number
    (∀ st n t, (s st n t).Quiet ∧ ((s st n t).line 0).call = some (pulseCall n 0)) ∧
    (pulseCall 0 0).out = some facts ∧ nibbles = [9, 12, 0, 1, 7, 1] ∧
    (s .seized 0 .blindWait).dialsOn 0 (pulseCall 0 0) (.blindWaitExpiry 0) 0 ∧
    (s .dialling 0 .interdigit).dialsOn 0 (pulseCall 0 0) (.interdigitExpiry 0) 1 ∧
    (s .dialling 5 .interdigit).dialsOn 0 (pulseCall 5 0) (.interdigitExpiry 0) 6 ∧
    nibbles[0]? = some 9 ∧ nibbles[1]? = some 12 ∧ nibbles[2]? = some 0 ∧ nibbles[6]? = none ∧
    (calling (aLine .dialling (pulseCall 0 1) (some .pulseBreak) none)).timerIs 0 .pulseBreak = true ∧
    (calling (aLine .dialling (pulseCall 0 1) (some .pulseMake) none)).timerIs 0 .pulseMake = true ∧
    2 ≤ (pulseCall 0 2).breaks ∧ (pulseCall 0 1).breaks = 1 := by
  refine ⟨fun _ _ _ => ⟨quiet_calling _, rfl⟩, rfl, by decide, .inl ⟨rfl, rfl, .inr ⟨rfl, rfl⟩⟩,
    .inr ⟨rfl, rfl, .inr (.inr (.inr ⟨rfl, rfl⟩))⟩, .inr ⟨rfl, rfl, .inr (.inr (.inr ⟨rfl, rfl⟩))⟩, ?_⟩
  decide +kernel

/-- A TONE line's call whose prefix is D. -/
def toneCall : Call := aCall (some facts) { toneLine with dialPrefix := [13] } 0

/-- A TONE line that hears dial tone goes on to D and waits for dial tone again. -/
theorem witness_NumbersAreDialled_tone :
    let s := calling (aLine .seized toneCall (some .dialTone) none)
    s.Quiet ∧ (s.line 0).call = some toneCall ∧ toneCall.out = some facts ∧
    s.dialsOn 0 toneCall (.dialTone 0) 0 ∧ toneCall.config.pulse = false ∧
    (toneCall.config.dialPrefix ++ dialledPart facts.number)[0]? = some 13 :=
  ⟨quiet_calling _, rfl, rfl, .inl ⟨rfl, rfl, .inl ⟨rfl, rfl⟩⟩, rfl, by decide⟩

/-- Section 7.8: the 0 after the pause is begun as ten breaks. -/
theorem test_zero_is_ten_breaks :
    holds (exec (.pauseExpiry 0) (calling (aLine .dialling (pulseCall 1 0) (some .pause) none)))
      (fun t => (t.line 0).call.map (fun c => (c.dialled, c.breaks)) == some (2, 10)
        && (t.line 0).offHook == false) = true := by decide +kernel

/-- Section 7.8: after the last 1 the line is ALERTING with 45.0 s to answer. -/
theorem test_end_of_number :
    holds (exec (.interdigitExpiry 0) (calling (aLine .dialling (pulseCall 5 0) (some .interdigit) none)))
      (fun t => (t.line 0).state == .alerting
        && (t.line 0).timer == some { kind := .answer, ms := 45000 }) = true := by decide +kernel

/-- Every event that ends an outgoing call, an ABORT LINE request among them, and the premises they share. -/
theorem witness_UnansweredCallsEnd :
    let s := fun st t => calling (aLine st (pulseCall 0 1) (some t) none)
    let settling := fun t => calling { aLine .seized (pulseCall 0 1) (some t) none with settling := true }
    let aborted := { s .seized .blindWait with
      memory := (s .seized .blindWait).memory.write (0x7C0000 + 0x400) (leBytes 2 14 ++ [0x12, 0x34])
      request := { (s .seized .blindWait).request with post := 1 } }
    (∀ st t, (s st t).Quiet ∧ ((s st t).line 0).call = some (pulseCall 0 1) ∧ ((s st t).line 0).link = none) ∧
    (settling .blindWait).Quiet ∧ ((settling .blindWait).line 0).settling = true ∧
    (s .seized .dialTone).callEnder 0 (.dialToneTimeout 0) .noTone ∧
    (s .dialling .digitSent).callEnder 0 (.digitSentTimeout 0) .timeout ∧
    (s .alerting .answer).callEnder 0 (.answerTimeout 0) .noAnswer ∧
    (s .alerting .answer).callEnder 0 (.busyTone 0) .busy ∧
    (s .dialling .pulseMake).callEnder 0 (.pulseMakeExpiry 0 false) .lineDropped ∧
    (s .seized .blindWait).callEnder 0 (.loopLost 0) .lineDropped ∧
    (settling .blindWait).callEnder 0 (.loopSettleExpiry 0 false) .lineDropped ∧
    aborted.Takes .abortLine ∧ aborted.argument 1 = 0 ∧
    ((s .seized .dialTone).meterOf 0).desk < 32 ∧ (s .seized .dialTone).deskCap 0 = 0 ∧
    facts.job < 16 ∧ facts.destination < 48 ∧
    (1 < (s .seized .dialTone).jobDestinations facts.job ∧ 1 < 48 ∧ 1 ≠ facts.destination ∧
      ((s .seized .dialTone).destination facts.job 1).state = .pending) ∧
    ((s .seized .dialTone).destination facts.job facts.destination).used + 1 < 10 :=
  ⟨fun _ _ => ⟨quiet_calling _, rfl, rfl⟩, ⟨rfl, rfl⟩, rfl, .inl ⟨rfl, rfl, rfl⟩, .inr (.inl ⟨rfl, rfl, rfl⟩),
    .inr (.inr (.inl ⟨rfl, rfl, rfl⟩)), .inr (.inr (.inr (.inl ⟨rfl, rfl, rfl⟩))),
    .inr (.inr (.inr (.inr (.inl ⟨rfl, rfl, rfl⟩)))),
    .inr (.inr (.inr (.inr (.inr ⟨rfl, rfl, rfl, .inl ⟨rfl, rfl, rfl⟩⟩)))),
    .inr (.inr (.inr (.inr (.inr ⟨rfl, rfl, rfl, .inr ⟨rfl, rfl⟩⟩)))), takes_of (by decide +kernel),
    by decide +kernel, by decide +kernel, by decide +kernel, by decide, by decide, by decide +kernel,
    by decide +kernel⟩

/-- A caller in CLEARING with outcome CAP ENDED and its FAREWELL being sent. -/
def clearing : LineChannel :=
  LineChannel.sends { aLine .clearing { pulseCall 6 0 with outcome := some .capEnded } (some .farewell) none with
    offHook := true } (.sendFrame .farewell)

/-- An answerer's call, and its link state in a phase. -/
def answered : Call := aCall none toneLine 0

/-- The link state of an answerer in a phase, rate class 4 in force, the page in progress and the last verdict. -/
def answererLink (phase : Phase) (page : Option ReceivePage) (v : Option LastVerdict) : Link :=
  { Link.start phase none with
    rate := some 4, rateChosen := 4, coding := some (.reference 8), resolution := some .fine,
    remoteTag := some (List.replicate 10 0x41), page := page, lastVerdict := v }

/-- A page received with sequence 0 and its cursor at 2. -/
def receivedPage (output : Output) (ending : Option (Nat × Bool)) : ReceivePage :=
  { seq := 0, output := output, cursor := 2, lastGood := some 5, ending := ending, truncated := false, waiting := [] }

/-- A part that answers on line 0. -/
def answering (k : Link) (t : Option TimerKind) : State := calling (aLine .linked answered t (some k))

theorem linked_answering (k : Link) (t : Option TimerKind) : (answering k t).LinkedWith 0 answered k :=
  link_calling _ _ _

theorem witness_LinkedCallsEnd :
    (calling clearing).Quiet ∧ ((calling clearing).line 0).state = .clearing ∧
    ((calling clearing).line 0).call = some { pulseCall 6 0 with outcome := some .capEnded } ∧
    (calling clearing).timerIs 0 .farewell = true ∧
    ((calling clearing).line 0).pump.sending = some (.sendFrame .farewell) ∧
    (calling clearing).deskCap ((calling clearing).meterOf 0).desk = 0 ∧
    (1 < (calling clearing).jobDestinations 0 ∧ ((calling clearing).destination 0 1).state = .pending) ∧
    (∀ k t, (answering k t).LinkedWith 0 answered k ∧ ((answering k t).line 0).pump.sending = none) ∧
    answered.out = none ∧ (answering (answererLink .tone none none) (some .tonePlayed)).timerIs 0 .tonePlayed = true ∧
    (answering (answererLink .receiving none none) (some .pageGap)).timerIs 0 .pageGap = true ∧
    (answererLink .receiving none (some ⟨3, .good, true⟩)).lastVerdict = some ⟨3, .good, true⟩ ∧
    (answererLink .receiving (some (receivedPage .refused none)) none).page = some (receivedPage .refused none) ∧
    (receivedPage .refused none).ending = none :=
  ⟨⟨rfl, rfl⟩, rfl, rfl, rfl, rfl, by decide +kernel, by decide +kernel,
    fun _ _ => ⟨linked_answering _ _, rfl⟩, rfl, rfl, rfl, rfl, rfl, rfl⟩

/-- A line that is IDLE, with a configuration. -/
def idleLine (d : Direction) : LineChannel :=
  { LineChannel.reset with held := { toneLine with direction := d } }

/-- A RINGING line with a count of bursts, in a burst or in the gap. -/
def ringingLine (rings : Nat) (t : Option TimerKind) : LineChannel :=
  { aLine .ringing { answered with rings := rings } t none with offHook := false }

/-- IDLE lines allowed in and not; bursts of 1 and 9; the gap, the rest; glare; an answer tone. -/
theorem witness_RingsAndTonesAreTaken :
    (∀ x, (calling x).Quiet ∧ (calling x).line 0 = x) ∧ (calling (idleLine .both)).isRunning = true ∧
    (idleLine .both).state = .idle ∧ (idleLine .both).held.direction ≠ .outgoing ∧
    (idleLine .outgoing).held.direction = .outgoing ∧ (ringingLine 1 none).state = .ringing ∧
    (ringingLine 1 none).timer = none ∧ 1 ≤ toneLine.answerRings ∧ toneLine.answerRings ≤ 1 ∧
    (ringingLine 9 none).call = some { answered with rings := 9 } ∧
    (ringingLine 0 none).call = some { answered with rings := 0 } ∧ 0 < toneLine.answerRings ∧
    (calling (ringingLine 1 (some .ringGap))).timerIs 0 .ringGap = true ∧
    (calling { LineChannel.atRest toneLine with held := toneLine }).timerIs 0 .rest = true ∧
    (aLine .seized (aCall (some facts) toneLine 0) (some .dialTone) none).state = .seized ∧
    toneLine.direction = .both ∧
    facts.destination < (calling (idleLine .both)).jobDestinations facts.job ∧
    ((calling (idleLine .both)).job facts.job).cancelling = false ∧
    (aLine .alerting (aCall (some facts) toneLine 0) (some .answer) none).state = .alerting ∧
    (calling (idleLine .both)).deskCap ((calling (idleLine .both)).meterOf 0).desk = 0 := by
  refine ⟨fun _ => ⟨quiet_calling _, rfl⟩, rfl, rfl, ?_⟩
  decide +kernel

/-! ### The link protocol -/

/-- A caller's call and link state. -/
def caller : Call := aCall (some facts) toneLine 0

/-- The link state of a caller in a phase: rate class 4 in force and chosen, FINE offered. -/
def callerLink (phase : Phase) (rate repeats : Nat) (p : Option SendPage) : Link :=
  { Link.start phase (some 4) with
    rateChosen := rate, repeats := repeats, coding := some (.reference 8), resolution := some .draft,
    offerKept := some (true, 4), sending := p }

/-- The page of a caller's list that is being sent, its transmitting Reference held. -/
def sendPage : SendPage := { index := 0, page := 0, seq := 0, times := 1, referenced := true }

/-- The sending half at the next line to be coded of two. -/
def sendHalf (next : Nat) (parcel : Option OpenParcel) (pending : Option Raster) : SendHalf :=
  { dec := aView.dec, seq := 0, nextSent := next, total := 2, reference := 0, nonDirect := 0, parcel := parcel,
    pending := pending }

/-- An LN context that sends. -/
def sendContext (h : SendHalf) : LineContext :=
  { LineContext.start with coding := some (.reference 8), send := some h }

/-- A part that calls on line 0, with a send in progress or none. -/
def callingOn (k : Link) (t : Option TimerKind) (sending : Option PumpCommand) (h : SendHalf) : State :=
  let x := aLine .linked caller t (some k)
  coding_ (calling { x with pump := { x.pump with sending := sending } }) (sendContext h)

theorem linked_callingOn (k : Link) (t : Option TimerKind) (p : Option PumpCommand) (h : SendHalf) :
    (callingOn k t p h).LinkedWith 0 caller k := ⟨⟨rfl, rfl⟩, rfl, rfl, rfl⟩

theorem sent_as (k : Link) (t : Option TimerKind) (p : Option PumpCommand) (h : SendHalf) :
    (callingOn k t p h).SentAs 0 true .draft false 2 :=
  have r : (callingOn k t p h).pageResolution 0 = .draft := by
    show (calling (idleLine .both)).pageResolution 0 = .draft; decide +kernel
  have n : (callingOn k t p h).pageLines 0 = 2 := by
    show (calling (idleLine .both)).pageLines 0 = 2; decide +kernel
  ⟨by simp [r], by simp [r], by simp [n]⟩

/-- Every phase and send of the statement; maximum K at 1 and 15, rate class 1 and 2, repeats 2 and 3. -/
theorem witness_CallersChooseAndCheck :
    (∀ k t p h, (callingOn k t p h).LinkedWith 0 caller k ∧ ((callingOn k t p h).line 0).pump.sending = p ∧
      (callingOn k t p h).SentAs 0 true .draft false 2 ∧ (callingOn k t p h).lnContext 0 = some (sendContext h)) ∧
    caller.out = some facts ∧ (callerLink .awaitOffer 4 0 none).rate = some 4 ∧
    (callingOn (callerLink .awaitOffer 4 0 none) none none (sendHalf 0 none none)).jobPage facts.job facts.resume = 0 ∧
    (List.replicate 10 (0x42 : Byte)).length = 10 ∧
    (List.replicate 15 (0 : Byte)).drop 13 ≠ checkBytes (1 :: List.replicate 13 0) ∧
    2 ≤ (callerLink .awaitReady 2 0 none).rateChosen ∧ (callerLink .awaitReady 1 0 none).rateChosen ≤ 1 ∧
    (callerLink .awaitReady 1 0 none).sending = none ∧
    (callingOn (callerLink .awaitOffer 4 2 none) (some .frameWait) none (sendHalf 0 none none)).timerIs 0 .frameWait
      = true ∧
    (callerLink .awaitVerdict 4 2 (some sendPage)).repeats < 3 ∧ 3 ≤ (callerLink .awaitVerdict 4 3 none).repeats ∧
    (callerLink .awaitVerdict 4 3 none).confirmed = 0 ∧
    (callingOn (callerLink .awaitOffer 4 3 none) (some .frameWait) none (sendHalf 0 none none)).deskCap 0 = 0 ∧
    ((callingOn (callerLink .awaitOffer 4 3 none) (some .frameWait) none (sendHalf 0 none none)).meterOf 0).desk
      < 32 ∧
    facts.job < 16 ∧ facts.destination < 48 ∧ facts.number.length = 24 ∧
    (∃ d, d < (calling LineChannel.reset).jobDestinations facts.job ∧ d < 48 ∧ d ≠ facts.destination ∧
      ((calling LineChannel.reset).destination facts.job d).state = .pending) :=
  ⟨fun _ _ _ _ => ⟨linked_callingOn _ _ _ _, rfl, sent_as _ _ _ _, rfl⟩, rfl, rfl, by decide +kernel, rfl,
    by decide +kernel, by decide, by decide, rfl, rfl, by decide, by decide, rfl, by decide +kernel,
    by decide +kernel, by decide, by decide, by decide, ⟨1, by decide +kernel⟩⟩

/-- READY with 2 References held; the last Parcel gone and one more to come; a verdict of the one page. -/
theorem witness_CallersSendTheirPages :
    let s := fun k => callingOn k none none (sendHalf 2 none none)
    (∀ k, (s k).LinkedWith 0 caller k ∧ (s k).lnContext 0 = some (sendContext (sendHalf 2 none none)) ∧
      ((s k).line 0).pump.sending = none ∧ (s k).SentAs 0 true .draft false 2) ∧
    caller.out = some facts ∧ (callerLink .awaitReady 4 0 none).offerKept = some (true, 4) ∧
    (callerLink .awaitReady 4 0 none).resolution = some .draft ∧
    (s (callerLink .awaitReady 4 0 none)).jobPage facts.job (facts.resume + 0) = 0 ∧
    (s (callerLink .awaitReady 4 0 none)).store.taking = true ∧
    (s (callerLink .awaitReady 4 0 none)).pageState 0 = .sealed ∧
    2 ≤ (s (callerLink .awaitReady 4 0 none)).references 0 ∧
    (s (callerLink .awaitReady 4 0 none)).references 0 ≤ 254 ∧ (2 : Nat) ≠ 0 ∧
    (sendContext (sendHalf 1 none none)).send = some (sendHalf 1 none none) ∧
    (sendHalf 1 none none).nextSent < (sendHalf 1 none none).total ∧
    (sendHalf 2 none none).total ≤ (sendHalf 2 none none).nextSent ∧
    (callerLink .awaitVerdict 4 0 (some sendPage)).sending = some sendPage ∧
    sendPage.index + 1 = (s (callerLink .awaitVerdict 4 0 (some sendPage))).jobPageCount facts.job ∧
    sendPage.times ≤ 1 ∧ ((s (callerLink .awaitVerdict 4 0 (some sendPage))).meterOf 0).capPending = false ∧
    ((callingOn (callerLink .sending 4 0 (some sendPage)) none (some (.sendParcel []))
        (sendHalf 1 none none)).line 0).pump.sending
      = some (.sendParcel []) :=
  ⟨fun _ => ⟨linked_callingOn _ _ _ _, rfl, rfl, sent_as _ _ _ _⟩, rfl, rfl, rfl, by decide +kernel,
    rfl, by decide +kernel, by decide +kernel, by decide +kernel, by decide, rfl, by decide, by decide, rfl,
    by decide +kernel, by decide, by decide +kernel, rfl⟩

/-- A verdict for the first of a job's two pages, the cap reached or not. -/
theorem witness_CallersSendTheirPages_more :
    let k := callerLink .awaitVerdict 4 0 (some sendPage)
    let s := callingOn k none none (sendHalf 2 none none)
    let s := { s with memory := s.memory.write 0x7CF000 (leBytes 4 (15 * 64 + 1024 + 16384 + 2 ^ 21 + 2 ^ 27)) }
    let u := s.setMeter 0 { s.meterOf 0 with capPending := true }
    s.LinkedWith 0 caller k ∧ u.LinkedWith 0 caller k ∧ sendPage.index + 1 ≠ s.jobPageCount facts.job ∧
    (s.meterOf 0).capPending = false ∧ (u.meterOf 0).capPending = true ∧
    sendPage.page = s.jobPage facts.job sendPage.index ∧ s.pageState 0 = .sealed ∧ 2 ≤ s.references 0 ∧
    s.references 0 ≤ 254 ∧ s.store.taking = true ∧ (s.line 0).pump.sending = none :=
  ⟨⟨⟨rfl, rfl⟩, rfl, rfl, rfl⟩, ⟨⟨rfl, rfl⟩, rfl, rfl, rfl⟩, by decide +kernel, rfl, rfl, by decide +kernel,
    by decide +kernel, by decide +kernel, by decide +kernel, rfl, rfl⟩

/-- A part whose LN0 sends page 0. -/
def codes (h : SendHalf) : State := callingOn (callerLink .sending 4 0 (some sendPage)) none none h

/-- A part whose LN0 receives, with a page of an output and its waiting lines and Parcels. -/
def receives (x : ReceivePage) (received : List (List Byte)) : State :=
  let y := aLine .linked answered none (some (answererLink .receiving (some x) none))
  let s := calling { y with received := received }
  let s := { s with memory := fillingPage }
  coding_ s { LineContext.start with
    coding := some (.reference 8)
    receive := some { enc := some (EncodeFrame.start 0), bit := 0, decoded := 0, reference := 0 } }

/-- A waiting line. -/
def waitingPage (output : Output) : ReceivePage :=
  { receivedPage output none with waiting := [{ pixels := 0, substitute := true }] }

/-- A Parcel of two white lines, the second REPEAT, read from its first bit. -/
def whiteParcel : OpenParcel := { first := 2, lines := 2, bits := directForm 0 ++ [true, true] }

/-- The first line, a next line, a pending line; a stored, a through-printed and a Parcel's line. -/
theorem witness_LineGrantsCodeOneLine :
    (∀ h, (codes h).path.hold = false ∧ (codes h).lnContext 0 = some (sendContext h)) ∧
    (codes (sendHalf 0 none none)).engineChoice = some (3, .ln 0) ∧
    (codes (sendHalf 0 none none)).lnReceiveWork 0 = false ∧
    (codes (sendHalf 1 (some whiteParcel) none)).engineChoice = some (3, .ln 0) ∧
    (codes (sendHalf 1 none (some 0))).engineChoice = some (3, .ln 0) ∧
    (receives (waitingPage (.stored 0)) []).engineChoice = some (1, .ln 0) ∧
    (receives (waitingPage (.stored 0)) []).lnReceiveWork 0 = true ∧
    (receives (waitingPage (.stored 0)) []).path.hold = false ∧
    (receives (waitingPage (.stored 0)) []).Fits 0 ((EncodeFrame.start 0).code 0).bits.length ∧
    (receives (receivedPage (.stored 0) none) [whiteParcel.bytes 0]).engineChoice = some (1, .ln 0) ∧
    readLine (.reference 8) (parcelBits (whiteParcel.bytes 0)) 0 0 = some (0, 22) ∧
    (parcelHeader (whiteParcel.bytes 0)).first = 2 ∧ 0 + 1 < (parcelHeader (whiteParcel.bytes 0)).count :=
  ⟨fun _ => ⟨rfl, rfl⟩, by decide +kernel, by decide +kernel, by decide +kernel, by decide +kernel, by decide +kernel,
    by decide +kernel, rfl, by rw [white_line_bits]; exact ⟨by decide +kernel, by decide +kernel, by decide +kernel⟩,
    by decide +kernel, by decide +kernel, by decide +kernel, by decide +kernel⟩

/-- A Parcel whose second line cannot be read. -/
def cutParcel : OpenParcel := { first := 2, lines := 2, bits := [true] }

/-- A page with no Leaf left, and a Parcel with a line error. -/
theorem witness_LineGrantsCodeOneLine_loss :
    let full := { receives (waitingPage (.stored 0)) [[1, 2, 3]] with memory := region [(0x3000, [1, 2])] }
    let cut := receives (receivedPage (.stored 0) none) [cutParcel.bytes 0]
    full.path.hold = false ∧ full.engineChoice = some (1, .ln 0) ∧ full.lnReceiveWork 0 = true ∧
    full.pageReceived 0 = true ∧ full.Refuses 0 ((EncodeFrame.start 0).code 0).bits.length ∧
    cut.engineChoice = some (1, .ln 0) ∧ cut.lnReceiveWork 0 = true ∧
    (receivedPage (.stored 0) none).waiting = [] ∧ (receivedPage (.stored 0) none).truncated = false ∧
    readLine (.reference 8) (parcelBits (cutParcel.bytes 0)) 0 0 = none := by
  refine ⟨rfl, by decide +kernel, by decide +kernel, by decide +kernel, ?_, by decide +kernel, by decide +kernel, rfl,
    rfl, by decide +kernel⟩
  rw [white_line_bits]; exact ⟨by decide +kernel, by decide +kernel, by decide +kernel, by decide +kernel⟩

end Sys2Proof.Tests

namespace Sys2Proof.Tests

open Sys2Proof.Machine

/-- A part that answers on line 0, its LN0 taken, 16 Leaves free, with Parcels in the buffers. -/
def receiving (k : Link) (t : Option TimerKind) (received : List (List Byte)) : State :=
  let s := calling { aLine .linked answered t (some k) with received := received }
  coding_ { s with store := { s.store with depth := 16 } } LineContext.start

theorem linked_receiving (k : Link) (t : Option TimerKind) (r : List (List Byte)) :
    (receiving k t r).LinkedWith 0 answered k := ⟨⟨rfl, rfl⟩, rfl, rfl, rfl⟩

/-- A page FINISHING with both buffers empty, over the Poor Threshold or not. -/
def finishing (substituted : Byte) : State :=
  let k := answererLink .finishing (some (receivedPage (.stored 1) (some (2, true)))) none
  let s := receiving k none []
  withReferences { s with memory := region [(0x3100, [1, 2, 1, 0x80, 2, 0]), (0x3112, [substituted])] } 1 2

/-- Parcels at the first and the last place of a page, of one line and of 255, of 1 bit and of 8192. -/
theorem witness_AnswerersReceivePages :
    (∀ k t r, (receiving k t r).LinkedWith 0 answered k ∧ (receiving k t r).lnContext 0 = some LineContext.start ∧
      ((receiving k t r).line 0).pump.sending = none ∧ ((receiving k t r).line 0).received = r ∧
      (receiving k t r).isRunning = true ∧ (receiving k t r).store.taking = true ∧
      16 ≤ (receiving k t r).store.depth) ∧
    answered.out = none ∧ (answererLink .tone none none).phase = .tone ∧
    (receiving (answererLink .offering none none) (some .frameWait) []).timerIs 0 .frameWait = true ∧
    (answererLink .offering none none).repeats < 3 ∧
    Coding.reference 8 ∈ [Coding.plain, .reference 2, .reference 4, .reference 8] ∧
    ({ answererLink .checkingAnswerer none none with choiceTaken := some (.plain, .fine) } : Link).choiceTaken
      = some (.plain, .fine) ∧
    2 ≤ [([] : List Byte), []].length ∧
    (List.replicate 9 (0 : Byte)).drop (6 + (beValue (((List.replicate 9 (0 : Byte)).drop 4).take 2) + 7) / 8)
      ≠ checkBytes ((List.replicate 9 (0 : Byte)).take
        (6 + (beValue (((List.replicate 9 (0 : Byte)).drop 4).take 2) + 7) / 8)) ∧
    2559 ≤ 2559 ∧ 2559 + 1 ≤ 2560 ∧ 2305 + 255 ≤ 2560 ∧ (List.replicate 8192 true).length = 8192 ∧
    (receivedPage (.stored 1) none).output ≠ .refused ∧ (receivedPage (.stored 1) none).truncated = false ∧
    (answererLink .receiving none none).resolution = some .fine ∧
    (∃ q, q < 128 ∧ (receiving (answererLink .receiving none none) none []).pageState q = .free) ∧
    (answererLink .receiving none (some ⟨3, .good, true⟩)).lastVerdict = some ⟨3, .good, true⟩ ∧
    (receivedPage .refused (some (2, true))).waiting = [] ∧
    (finishing 32).pageState 1 = .filling ∧ (finishing 32).references 1 = 2 ∧
    (finishing 32).print.autoPrint = false ∧ ¬ (finishing 32).poorThreshold < (finishing 32).substituted 1 ∧
    (finishing 32).pageTruncated 1 = false ∧ (finishing 33).poorThreshold < (finishing 33).substituted 1 ∧
    (finishing 33).pageStartMinimum = true ∧
    ((receiving (answererLink .receiving none none) none []).setLine 0
      (LineChannel.sends (aLine .linked answered none (some (answererLink .receiving none none)))
        (.sendFrame (.verdict 3 .good)))).line 0
      = LineChannel.sends (aLine .linked answered none (some (answererLink .receiving none none)))
        (.sendFrame (.verdict 3 .good)) :=
  ⟨fun _ _ _ => ⟨linked_receiving _ _ _, rfl, rfl, rfl, rfl, rfl, by show 16 ≤ 16; decide⟩, rfl, rfl, rfl,
    by decide, by decide,
    rfl, by decide, by decide +kernel, by decide, by decide, by decide, List.length_replicate, by decide, rfl, rfl,
    ⟨1, by decide, by decide +kernel⟩, rfl, rfl, by decide +kernel, by decide +kernel, rfl, by decide +kernel,
    by decide +kernel, by decide +kernel, by decide +kernel, rfl⟩

/-- No page in progress, with a depth of free Leaves, the Print Unit in a state, and an awaited copy or none. -/
def deciding (depth : Nat) (st : PrintState) (a : Option Awaited) : State :=
  let s := receiving { answererLink .receiving none none with awaited := a } none []
  { s with store := { s.store with depth := depth }, print := { s.print with state := st } }

/-- FINISHING with a page through-printed, its last line in the buffer or printed, with paper or without. -/
def throughEnding (buffer : Option Raster) (paper : Bool) : State :=
  let s := receiving (answererLink .finishing (some (receivedPage .through (some (2, true)))) none) none []
  { s with print := { s.print with state := .through, owner := some 0, buffer := buffer, paper := paper } }

/-- FINISHING with page 1, a resend of page 2, which lost 40 lines; a tag on the Flash List; Auto Print ON. -/
def resending (lost : Byte) : State :=
  let k := { answererLink .finishing (some (receivedPage (.stored 1) (some (4, true)))) none with
    awaited := some ⟨2, 2⟩ }
  let s := receiving k none []
  let s := { s with memory := region [(0x3100, [1, 2, 1, 0x80, 2, 0]), (0x3112, [lost]),
    (0x3118, List.replicate 10 0x41), (0x3200, [2, 2, 1, 0x82, 2, 0]), (0x3212, [40]),
    (0x1A00 + 32 * 7, [1, 0, 0, 0] ++ List.replicate 10 0x41)] }
  let s := withReferences (withReferences s 1 1) 2 1
  { s with print := { s.print with state := .printing, autoPrint := true, entryCount := 9 } }

/-- Below the Page Start Minimum by one Leaf; a page through-printed; equal losses, and the resend's greater. -/
theorem witness_AnswerersReceivePages_outputs :
    (∀ d st a, (deciding d st a).LinkedWith 0 answered { answererLink .receiving none none with awaited := a } ∧
      ((deciding d st a).line 0).received = [] ∧ ((deciding d st a).line 0).pump.sending = none ∧
      (deciding d st a).isRunning = true ∧ (deciding d st a).store.depth = d ∧
      (deciding d st a).print.state = st ∧ (deciding d st a).print.autoPrint = false) ∧
    15 < 16 ∧ (answererLink .receiving none none).resolution = some .fine ∧
    (∀ b p, (throughEnding b p).finishingDone 0 = true ∧ (throughEnding b p).print.state = .through ∧
      (throughEnding b p).print.owner = some 0) ∧
    (resending 40).LinkedWith 0 answered ((((resending 40).line 0).link).getD (Link.start .tone none)) ∧
    (resending 40).finishingDone 0 = true ∧ (resending 40).pageState 1 = .filling ∧
    (resending 40).references 1 = 1 ∧ (resending 40).pageState 2 = .sealed ∧ (resending 40).references 2 = 1 ∧
    (resending 40).StoreBounded ∧ (resending 40).substituted 1 ≤ (resending 40).substituted 2 ∧
    (resending 41).substituted 2 < (resending 41).substituted 1 ∧ (resending 40).path.state ≠ .pass ∧
    (resending 40).request.unread + 2 ≤ 128 ∧ (resending 40).print.autoPrint = true ∧
    (resending 40).store.taking = true ∧ (resending 40).print.state ≠ .idle ∧
    (resending 40).print.entryCount < 4294967296 ∧ ((resending 40).slot 0).state = some .empty :=
  ⟨fun _ _ _ => ⟨⟨⟨rfl, rfl⟩, rfl, rfl, rfl⟩, rfl, rfl, rfl, rfl, rfl, rfl⟩, by decide, rfl,
    fun _ _ => ⟨rfl, rfl, rfl⟩, ⟨⟨rfl, rfl⟩, rfl, rfl, rfl⟩, rfl, by decide +kernel, by decide +kernel,
    by decide +kernel, by decide +kernel,
    bounded_of (by decide) (by decide) (by decide +kernel), by decide +kernel,
    by decide +kernel, by decide, by decide +kernel, rfl, rfl, by decide, by decide, by decide +kernel⟩

/-- R141: with equal losses the resend is kept, and handed to auto-print as an URGENT item (R175). -/
theorem test_resend_choice :
    holds (exec (.verdictDecide 0) { resending 40 with
      request := { (resending 40).request with produce := 128 } }) (fun t => t.pageState 1 == .sealed
      && t.pageState 2 == .free
      && (t.slot 0).urgent && (t.slot 0).page == 1 && t.references 1 == 2) = true := by decide +kernel

/-- Section 8.8, step 4: a Parcel with a gap before it orders copies of the last good line. -/
theorem test_gap_substitutes :
    holds (exec (.parcelIn 0 ({ whiteParcel with first := 4 }.bytes 0))
      (receiving (answererLink .receiving (some (receivedPage (.stored 1) none)) none) none []))
      (fun t => ((t.line 0).link.bind (·.page)).map (fun x => (x.cursor, x.waiting))
        == some (4, [{ pixels := 5, substitute := true }, { pixels := 5, substitute := true }])) = true := by
  decide +kernel

/-- Section 8.8, step 7: over the Poor Threshold the verdict is POOR with the POOR flag, for a page that is no
resend; at the threshold it is GOOD. -/
theorem test_poor_verdict :
    let x := receivedPage (.stored 1) (some (2, true))
    (finishing 33).judge (answererLink .finishing (some x) none) x = (.poor, poorBit) ∧
    (finishing 33).judge { answererLink .finishing (some x) none with awaited := some ⟨0, 2⟩ } x = (.good, poorBit) ∧
    (finishing 32).judge (answererLink .finishing (some x) none) x = (.good, 0) := by decide +kernel

/-- Table 12.9: the bytes of a PAGE END of 600 lines, LAST, before its check. -/
theorem test_page_end_bytes :
    (Frame.pageEnd 1 600 true).bytes.take 5 = [0x05, 0x01, 0x02, 0x58, 0x01] := by decide +kernel

/-- R118: a loop lost off hook ends the call LINE DROPPED, and the one attempt that the job allows has failed. -/
theorem test_loop_lost :
    holds (exec (.loopLost 0) (calling (aLine .alerting caller (some .answer) none)))
      (fun t => (t.line 0).state == .resting && (t.destination 0 0).state == .failed
        && (t.destination 0 0).lastOutcome == 22) = true := by decide +kernel

/-- R135, R138: the PAGE END of a refused page leaves no line waiting, so that its verdict is decided. -/
theorem test_refused_page_ends :
    holds (exec (.pageEnd 0 ((Frame.pageEnd 0 600 true).bytes.drop 1))
      (answering (answererLink .receiving (some (receivedPage .refused none)) none) (some .pageGap)))
      (fun t => t.finishingDone 0) = true := by decide +kernel

end Sys2Proof.Tests

namespace Sys2Proof.Tests

open Sys2Proof.Machine

/-! ### LOCKED sequences, the engine's choice, Leaves granted, lines decoded -/

/-- Both ends of the region in a hold, read and written, with transfers held back and seven posted writes. -/
theorem witness_HeldTransfersArePerformedAtTheEnd_ending :
    let s := holding [.record .printUnit, .notice (List.replicate 16 0), .record (.lineChannel 2), .flags none]
    s.path.waiting = none ∧ s.path.sequence = true ∧ s.path.hold = true ∧ s.path.queue.length < 8 ∧
    (withQueue s 7).path.queue.length < 8 ∧
    s.regionAt (0x7C0000 : BitVec 26).toNat ∧ s.regionAt (0x7FFFFC : BitVec 26).toNat ∧
    ¬ observedOffset ((0x7FFFFC : BitVec 26).toNat - s.regionBase) ∧
    s.protectedWrite (writeCycle (0x7FFFFC : BitVec 26).toNat 5 0xF false sup) = false :=
  ⟨rfl, rfl, rfl, by decide, by decide, ⟨by decide +kernel, by decide⟩, ⟨by decide +kernel, by decide⟩,
    by unfold observedOffset; decide +kernel, by decide +kernel⟩

/-- A notice raised with 127 unread, with no hold. -/
theorem witness_SettingsAreClampedAndWrittenBack_interrupt :
    (unread 127).path.hold = false ∧ (unread 127).path.state ≠ .pass ∧ (unread 127).request.unread < 128 := by
  decide +kernel

/-- CP0 composes page 0, which has a number of full Leaves and a last one; Leaf 9 is on top of the Free Leaf
Stack. -/
def granting (leaves depth last : Nat) : State :=
  let s := composing (region [(0x3000, [1, 1]), (0x3008, leBytes 4 (32768 * leaves)),
    (0x300C, leBytes 2 3 ++ leBytes 2 last ++ leBytes 2 leaves), (0xD000 + 2 * (depth - 1), leBytes 2 9)])
    (aContext none none 1 .opened)
  { s with store := { s.store with depth := depth } }

/-- A page's first Leaf at a depth one above the Receive Reserve, and its third one. -/
theorem witness_GrantsCommitOneLine_leaf :
    let n := ((EncodeFrame.start 0).code 0).bits.length
    (granting 0 33 0xFFFF).path.hold = false ∧ (granting 0 33 0xFFFF).engineChoice = some (5, .cp 0) ∧
    (granting 0 33 0xFFFF).compose 0 = some (aContext none none 1 .opened) ∧
    (granting 0 33 0xFFFF).Grants 0 n ∧ (granting 2 34 5).engineChoice = some (5, .cp 0) ∧
    (granting 2 34 5).Grants 0 n := by
  refine ⟨rfl, by decide +kernel, rfl, ?_, by decide +kernel, ?_⟩ <;> rw [white_line_bits] <;>
    exact ⟨by decide +kernel, by decide +kernel, by decide +kernel, rfl, by decide +kernel, by decide +kernel,
      by decide +kernel, by decide +kernel⟩

/-- The last line of a sheet whose page has two full Leaves, 3 and 5; the last Leaf of the store is on top of the
Free Leaf Stack, at a depth one above the Receive Reserve. -/
def closingOnLeaves : State :=
  let s := closingScan (region [(0x3000, [1]), (0x3008, leBytes 4 65536), (0x300C, [3, 0, 5, 0, 2, 0]),
    (0xB006, [5, 0, 0, 0, 0xFF, 0xFF]), (0xD040, leBytes 2 1983)])
  { s with store := { s.store with depth := 33 } }

theorem witness_GrantsCommitOneLine_last :
    closingOnLeaves.path.hold = false ∧ closingOnLeaves.engineChoice = some (4, .sc) ∧
    closingOnLeaves.engine.sc = some (EncodeFrame.start 0) ∧ closingOnLeaves.scan.ring = [0] ∧
    1 ≤ closingOnLeaves.references 0 ∧ closingOnLeaves.LeavesBelow 0 ∧
    closingOnLeaves.Grants 0 ((EncodeFrame.start 0).code 0).bits.length := by
  refine ⟨rfl, by decide +kernel, rfl, rfl, by decide +kernel, ⟨by decide +kernel, by decide +kernel,
    by decide +kernel, by decide +kernel, by decide +kernel⟩, ?_⟩
  rw [white_line_bits]
  exact ⟨by decide +kernel, by decide +kernel, by decide +kernel, rfl, by decide +kernel, by decide +kernel,
    by decide +kernel, by decide +kernel⟩

/-- A scanning part that takes no line grants the SC context; a part after reset grants none. -/
theorem witness_GrantsCommitOneLine_choice :
    scanning.GrantedNext 4 .sc ∧ (∀ k c, ¬ State.reset.standsIn k c) ∧
    (closingScan fillingPage).request.unread + 4 ≤ 128 := by
  have cp : ∀ i, scanning.compose i = none ∧ State.reset.compose i = none := by decide
  have rv : ∀ i, scanning.view i = none ∧ State.reset.view i = none := by decide
  have ln : ∀ l, (scanning.line l).state ≠ .linked ∧ (State.reset.line l).state ≠ .linked := by decide
  have only : ∀ k c, scanning.standsIn k c → k = 4 ∧ c = .sc := by
    intro k c h
    cases c with
    | sc => exact ⟨h.1, rfl⟩
    | cp i => obtain ⟨_, c, hc, _⟩ := h; simp [cp] at hc
    | rv i => obtain ⟨v, hv, _⟩ := h; simp [rv] at hv
    | pr => exact absurd h.2.1 (by decide)
    | ln l => rcases h with h | h
              · exact absurd h.2.1 (ln l).1
              · exact absurd h.2.2.1 (ln l).1
  refine ⟨⟨⟨rfl, .inl rfl, by decide, by decide⟩, fun j d h => (only j d h).1 ▸ Fin.le_refl _,
    fun d h => (only 4 d h).2 ▸ Nat.le_refl _⟩, ?_, by decide +kernel⟩
  intro k c h
  cases c with
  | sc => exact absurd h.2.1 (by decide)
  | cp i => obtain ⟨_, c, hc, _⟩ := h; simp [cp] at hc
  | rv i => obtain ⟨v, hv, _⟩ := h; simp [rv] at hv
  | pr => exact absurd h.2.1 (by decide)
  | ln l => rcases h with h | h
            · exact absurd h.2.1 (ln l).2
            · exact absurd h.2.2.1 (ln l).2

/-- Page 0 with Leaf 5 alone, in a state, with committed lines and the Restart Table entry of line 64. -/
def chained (state : Byte) (lines restart : Nat) : State :=
  let s := running (region [(0x3000, [state]), (0x3004, leBytes 2 lines), (0x3008, leBytes 4 32768),
    (0x300C, [5, 0, 5, 0, 1, 0]), (0x3064, leBytes 4 restart), (0xB00A, [0xFF, 0xFF])])
  { s with store := { s.store with leafCount := 6 } }

/-- A decode frame of page 0. -/
def frameAt (next errorBelow : Nat) : DecodeFrame := { aView.dec with next := next, errorBelow := errorBelow }

/-- The last bit of a chain of one Leaf; a DROPPED page, and a SEALED one read past its last line; a line before
the next restart line; lines 0 and 63; line 64 with an entry and with NONE; a view onward, and at lines 64 and 128
of a page of 65 lines. -/
theorem witness_ViewDecodesTowardsItsTarget_lines :
    (chained 1 65 32767).ChainStands 0 ∧ ((chained 1 65 32767).chainOf 0)[0]? = some 5 ∧ 32767 / 32768 = 0 ∧
    (chained 3 65 0).pageState 0 = .dropped ∧ (chained 2 65 0).pageState 0 = .sealed ∧
    (chained 2 65 0).pageLines 0 ≤ (frameAt 65 0).next ∧ (chained 1 65 0).pageState 0 = .filling ∧
    (frameAt 63 64).next < (frameAt 63 64).errorBelow ∧ (frameAt 0 0).errorBelow = 0 ∧
    (frameAt 64 64).errorBelow = (frameAt 64 64).next ∧
    (chained 1 65 0xFFFFFFFF).restartEntry 0 ((frameAt 64 64).next / 64) = none ∧
    (chained 1 65 32767).restartEntry 0 ((frameAt 64 64).next / 64) = some 32767 ∧
    64 * (63 / 64) ≤ aView.dec.next ∧ aView.dec.next ≤ 63 ∧ aView.dec.next < 64 * (64 / 64) ∧
    64 * (64 / 64) < (chained 1 65 32767).pageLines 0 ∧ (chained 1 65 32767).pageLines 0 ≤ 64 * (128 / 64) := by
  unfold State.ChainStands
  decide +kernel

/-! ### Refused requests -/

theorem takes_all {k : RequestKind} {l : List State}
    (h : ∀ s ∈ l, s.path.hold = false ∧ s.requestIs k.code = true ∧ s.claimWaits k = false) :
    ∀ s ∈ l, s.Takes k := fun s hs => takes_of (h s hs)

/-- A state with both compose contexts and both views taken. -/
def crowded (s : State) : State :=
  { s with engine := { s.engine with
    cp := Vector.replicate 2 (some (aContext none none 0 .opened)), rv := Vector.replicate 2 (some aView) } }

/-- A state whose store takes no page. -/
def storeless (s : State) : State := { s with store := { s.store with taking := false } }

/-- One OPEN COMPOSE for each check, which it fails after it has passed those before. -/
def openRefused : List State :=
  [asked 3 [8, 1] [], withEntry (asked 3 [0, 2] []) { rasterEntry with kind := .compose },
   withEntry (asked 3 [0, 1] []) rasterEntry, composeAsked 3 (some (aContext none none 0 .opened)),
   crowded (composeAsked 3 none), storeless (composeAsked 3 none)]

theorem witness_OpenAndPushCompose_refused :
    let bound := some (aContext none none 0 .opened)
    let p := [asked 4 [8] [], composeAsked 4 none, composeAsked 4 bound]
    (∀ s ∈ openRefused, s.Takes .openCompose) ∧
    openRefused.map (fun s => (s.argument 1, s.argument 2, (s.aperture 0).kind))
      = [(8, 1, .compose), (0, 2, .compose), (0, 1, .raster), (0, 1, .compose), (0, 1, .compose), (0, 1, .compose)] ∧
    openRefused.map (fun s => ((s.aperture 0).binding.isSome, (s.compose 1).isSome, s.store.taking))
      = [(false, false, true), (false, false, true), (false, false, true), (true, false, true), (false, true, true),
         (false, false, false)] ∧
    (∀ s ∈ p, s.Takes .pushCompose) ∧ p.map (fun s => s.argument 1) = [8, 0, 0] ∧
    p.map (fun s => (s.aperture 0).binding.isSome) = [false, false, true] :=
  ⟨takes_all (by decide +kernel), by decide +kernel, by decide +kernel, takes_all (by decide +kernel),
    by decide +kernel, by decide +kernel⟩

/-- A TRUNCATED window, and one with no current line, asked and resumed. -/
theorem witness_OpenAndPushCompose_none :
    let cut := { aContext (some (2, 0)) none 2 .opened with window := .truncated }
    let p := fun c => composeAsked 4 (some c)
    (∀ c, ((p c).aperture 0).kind = .compose ∧ ((p c).aperture 0).binding = some { page := 0, ctx := 0 } ∧
      (p c).compose 0 = some c ∧ (p c).path.hold = false ∧
      (executing (p c) (.push 0 [1, 2])).request.executing = some (.push 0 [1, 2])) ∧
    cut.window = .truncated ∧ (p cut).requestIs 4 = true ∧ (p cut).argument 1 = 0 ∧
    (aContext none none 2 .opened).current = none :=
  ⟨fun _ => ⟨rfl, rfl, rfl, rfl, rfl⟩, rfl, by decide +kernel, by decide +kernel, rfl⟩

/-- A current line with one and with two lines queued, asked and resumed, with a write waiting on the window and
with one waiting on another; a TRUNCATED window; the refusals. -/
theorem witness_SealComposeEndsTheWindow_line :
    let c := fun n => aContext (some (2, 0)) none n .opened
    let d := fun n => aContext (some (2, 0)) none n .closing
    let s := fun x => composeAsked 5 (some x)
    let w := fun e => withWaiting (s (c 1)) aCycle (.composeSlot e)
    let refused := [asked 5 [8] [], composeAsked 5 none]
    (∀ x, ((s x).aperture 0).kind = .compose ∧ ((s x).aperture 0).binding = some { page := 0, ctx := 0 } ∧
      (s x).compose 0 = some x ∧ (s x).path.hold = false ∧ (s x).path.waiting = none ∧
      (executing (s x) (.seal 0 [1, 2])).request.executing = some (.seal 0 [1, 2])) ∧
    (∀ n, (c n).current = some (2, 0) ∧ (c n).window = .opened ∧ (d n).window = .closing ∧
      (d n).current = some (2, 0) ∧ (c n).enc.page = 0) ∧
    (s (c 1)).pageState 0 = .filling ∧ (s (c 1)).requestIs 5 = true ∧ (s (c 1)).argument 1 = 0 ∧
    (c 1).queue.length < 2 ∧ 2 ≤ (c 2).queue.length ∧ (d 1).queue.length < 2 ∧ 2 ≤ (d 2).queue.length ∧
    (w 0).path.waiting = some { cycle := aCycle, why := .composeSlot 0 } ∧
    (∀ y, (w 1).path.waiting ≠ some { cycle := y, why := .composeSlot 0 }) ∧
    (aContext (some (2, 0)) none 2 .truncated).window = .truncated ∧
    (∀ x ∈ refused, x.Takes .sealCompose) ∧ refused.map (fun x => x.argument 1) = [8, 0] ∧
    refused.map (fun x => (x.aperture 0).binding.isSome) = [false, false] :=
  ⟨fun _ => ⟨rfl, rfl, rfl, rfl, rfl, rfl⟩, fun _ => ⟨rfl, rfl, rfl, rfl, rfl⟩, by decide +kernel, by decide +kernel,
    by decide +kernel, by decide, by decide, by decide, by decide, rfl, fun _ h => (nomatch h), rfl,
    takes_all (by decide +kernel), by decide +kernel, by decide +kernel⟩

/-- One BIND RASTER for each check, which it fails after it has passed those before. -/
def bindRefused : List State :=
  let on := fun (p : Nat) (x : Aperture) => withEntry (asked 6 [0, p] [(0x3000 + 256 * 127, [2])]) x
  [asked 6 [8, 0] [], on 128 rasterEntry, on 127 { rasterEntry with kind := .compose },
   on 127 { rasterEntry with binding := some { page := 0, ctx := 0 } }, crowded (on 127 rasterEntry),
   on 126 rasterEntry, withReferences (on 127 rasterEntry) 127 251]

theorem witness_ViewsAreBoundAndUnbound_refused :
    let u := [asked 7 [8] [], asked 7 [0] []]
    (∀ s ∈ bindRefused, s.Takes .bindRaster) ∧
    bindRefused.map (fun s => (s.argument 1, s.argument 2, (s.aperture 0).kind))
      = [(8, 0, .compose), (0, 128, .raster), (0, 127, .compose), (0, 127, .raster), (0, 127, .raster),
         (0, 126, .raster), (0, 127, .raster)] ∧
    bindRefused.map (fun s => ((s.aperture 0).binding.isSome, (s.view 1).isSome, s.references 127))
      = [(false, false, 0), (false, false, 0), (false, false, 0), (true, false, 0), (false, true, 0), (false, false, 0),
         (false, false, 251)] ∧
    (∀ s ∈ bindRefused.tail, s.pageState 126 = .free ∧ s.pageState 127 = .sealed) ∧
    (∀ s ∈ u, s.Takes .unbind) ∧ u.map (fun s => s.argument 1) = [8, 0] ∧
    u.map (fun s => (s.aperture 0).binding.isSome) = [false, false] :=
  ⟨takes_all (by decide +kernel), by decide +kernel, by decide +kernel, by decide +kernel,
    takes_all (by decide +kernel), by decide +kernel, by decide +kernel⟩

/-- One SUBMIT SEND for each check, which it fails after it has passed those before. -/
def submitRefused : List State :=
  [asked 9 [16] [], asked 9 [0] [(0xF200, [1])], asked 9 [0] (jobPieces 49), asked 9 [0] (jobPieces 48),
   withReferences submitAsked 0 251]

/-- The job's fields are good; the first entry takes a number and none above it does; entry 255 takes one of 16
nibbles; no entry takes one. -/
theorem witness_SubmittedJobsAreQueued_refused :
    let full := running (region [(0x2FF0, [1, 1, 16, 15] ++ List.replicate 8 0x11)])
    (∀ s ∈ submitRefused, s.Takes .submitSend) ∧
    submitRefused.map (fun s => (s.argument 1, (s.job 0).state, s.jobDestinations 0, s.pageState 0, s.references 0))
      = [(16, .empty, 0, .free, 0), (0, .queued, 0, .free, 0), (0, .empty, 49, .free, 0), (0, .empty, 48, .free, 0),
         (0, .empty, 1, .sealed, 251)] ∧
    submitAsked.JobWithin 0 ∧ ¬ (asked 9 [0] (jobPieces 49)).JobWithin 0 ∧
    submitAsked.tariffTakes 0 [1, 2] ∧ (∀ k, 0 < k → k < 256 → ¬ submitAsked.tariffTakes k [1, 2]) ∧
    full.tariffTakes 255 (List.replicate 16 1) ∧ ∀ i, i < 256 → ¬ State.reset.tariffTakes i [1, 2] := by
  have above : ∀ k, k < 256 → k ≠ 0 → ¬ submitAsked.tariffTakes k [1, 2] := by
    unfold State.tariffTakes; decide +kernel
  refine ⟨takes_all (by decide +kernel), by decide +kernel, job_within, fun h => absurd h.destinations.2 (by
    decide +kernel), ?_, fun k h1 h2 => above k h2 (by omega), ?_, ?_⟩ <;> unfold State.tariffTakes <;> decide +kernel

/-- The refusals of CANCEL SEND; a call with a page in progress, the pump sending or not; a CAPPED desk, and a
desk with a cap and one call alone. -/
theorem witness_CancelledJobsAreDone_page :
    let refused := [asked 10 [16] [], asked 10 [0] [], asked 10 [0] [(0xF200, [1, 1])]]
    let k := { Link.start .sending (some 4) with sending := some sendPage }
    let x := callerIn .linked (some k)
    let y := { x with pump := { x.pump with sending := some .playTone } }
    let s := cancelCalling (callerIn .seized none)
    let capped := s.setDesk 0 { capped := true, markup := 0 }
    let alone := { s with memory := s.memory.write 0x7C1404 [0, 0, 0, 5] }
    (∀ r ∈ refused, r.Takes .cancelSend) ∧
    refused.map (fun r => (r.argument 1, (r.job 0).state, (r.job 0).cancelling))
      = [(16, .empty, false), (0, .empty, false), (0, .queued, true)] ∧
    (cancelCalling x).Takes .cancelSend ∧ x.call = some (heldCall x) ∧ x.link = some k ∧ y.link = some k ∧
    sendPage.page < 128 ∧ 2 ≤ (cancelCalling x).references sendPage.page ∧ x.pump.sending = none ∧
    y.pump.sending ≠ none ∧ sendPage.referenced = true ∧ (capped.desk 0).capped = true ∧
    alone.deskCap 0 = 5 ∧ (alone.desk 0).capped = false ∧
    ∀ n, n ≠ 0 → ¬ ((alone.meterOf n).active = true ∧ (alone.meterOf n).desk = (alone.meterOf 0).desk) :=
  ⟨takes_all (by decide +kernel), by decide +kernel, takes_of (by decide +kernel), rfl, rfl, rfl, by decide,
    by decide +kernel, rfl, by decide, rfl, by decide +kernel, by decide +kernel, by decide +kernel, by decide +kernel⟩

/-- A look in a hold. -/
theorem witness_LookSeizesALine_hold : sequenced.path.hold = true := rfl

/-- Desk 0 is settled with a cap of 1.00 in hundredths, or with none, while line 0 is in a call that it is
charged for. -/
def settling (x : LineChannel) (m : Meter) (capped : Bool) (cap : Nat) : State :=
  let s := calling x
  let s := { s with
    memory := s.memory.write 0x7C0400 (leBytes 2 13 ++ [1, 2] ++ leBytes 4 0 ++ leBytes 4 cap ++ leBytes 4 0
      ++ leBytes 4 0)
    request := { s.request with post := 1 } }
  (s.setMeter 0 m).setDesk 0 { capped := capped, markup := 0 }

/-- The refusals of SETTLE DESK; a cap of 0.01 that a call's charge of 0.01 reaches, the line LINKED in a page and
between pages, CLEARING, and SEIZED; a CAPPED desk reopened with a cap of 0, and one that stays CAPPED. -/
theorem witness_SettledDesksAreSetAfresh_calls :
    let refused := [asked 13 [32, 0, 0, 0] [], asked 13 [31, 10, 0, 0] [], asked 13 [31, 0, 1000, 0] []]
    let c := aCall (some facts) pulseLine 6
    let k := Link.start .awaitOffer (some 4)
    let m := { Meter.cleared with active := true, localRaw := 10 }
    let linked := aLine .linked c none (some k)
    let s := settling linked m false 0x01000000
    let charged := [settling linked { m with pageInProgress := true } false 0x01000000,
      settling (aLine .clearing c (some .farewell) (some k)) m false 0x01000000,
      settling (aLine .seized c (some .dialTone) none) m false 0x01000000]
    (∀ r ∈ refused, r.Takes .settleDesk) ∧ (∀ r ∈ charged, r.Takes .settleDesk) ∧
    charged.map (fun r => ((r.line 0).state, (r.meterOf 0).pageInProgress, (r.line 0).link.isSome, (r.desk 0).capped))
      = [(.linked, true, true, false), (.clearing, false, true, false), (.seized, false, false, false)] ∧
    refused.map (fun r => (r.argument 1, (nibbles (r.argumentBytes 2)).any (fun n => decide (9 < n.toNat)),
      r.argument 3)) = [(32, false, 0), (31, true, 0), (31, false, 1000)] ∧
    (∀ x n b a, (settling x n b a).charge.orders = [] ∧ (settling x n b a).line 0 = x ∧
      (settling x n b a).meterOf 0 = n) ∧
    s.Takes .settleDesk ∧ s.argument 1 = 0 ∧ (nibbles (s.argumentBytes 2)) = [0, 0, 0, 0, 0, 0, 0, 1] ∧
    s.argument 3 = 0 ∧ s.argument 4 = 0 ∧ s.deskTotal 0 = 0 ∧ (m.basis * 1000 + 5000) / 10000 = 1 ∧
    (s.desk 0).capped = false ∧ s.request.unread + 2 ≤ 128 ∧ (m.active, m.desk) = (true, 0) ∧
    (∀ l, l ≠ 0 → ¬ ((s.meterOf l).active = true ∧ (s.meterOf l).desk = 0)) ∧
    linked.call = some c ∧ c.out = some facts ∧ linked.link = some k ∧ k.sending = none ∧
    linked.pump.sending = none ∧ linked.state = .linked ∧ m.pageInProgress = false ∧
    facts.job < 16 ∧ facts.destination < 48 ∧ facts.destination < s.jobDestinations facts.job ∧
    (s.job facts.job).cancelling = false ∧
    ((settling linked { m with capPending := true } true 0).desk 0).capped = true ∧
    (nibbles ((settling linked { m with capPending := true } true 0).argumentBytes 2)).all (fun n => n == 0) = true :=
  ⟨takes_all (by decide +kernel), takes_all (by decide +kernel), by decide +kernel, by decide +kernel, fun _ _ _ _ => ⟨rfl, rfl, rfl⟩, takes_of (by decide +kernel),
    by decide +kernel, by decide +kernel, by decide +kernel, by decide +kernel, by decide +kernel, by decide +kernel,
    by decide +kernel, by decide +kernel, rfl, by decide +kernel, rfl, rfl, rfl, rfl, rfl, rfl, rfl, by decide,
    by decide, by decide +kernel, by decide +kernel, by decide +kernel, by decide +kernel⟩

/-- One PRINT PAGE and one CANCEL PRINT for each check, which it fails after it has passed those before. -/
theorem witness_PrintRequests_refused :
    let p := [printAsked 11 [128, 1, 0] [] .idle, printAsked 11 [127, 0, 0] [] .idle,
      printAsked 11 [127, 100, 0] [] .idle, printAsked 11 [126, 99, 0] [] .idle,
      withReferences (printAsked 11 [127, 99, 0] [] .idle) 127 251]
    let c := [asked 12 [32] [], asked 12 [31] [], asked 12 [31] [(0x1800 + 16 * 31, [1, 127, 1, 0, 4])]]
    (∀ s ∈ p, s.Takes .printPage) ∧
    p.map (fun s => (s.argument 1, s.argument 2, s.references 127))
      = [(128, 1, 250), (127, 0, 250), (127, 100, 250), (126, 99, 250), (127, 99, 251)] ∧
    (∀ s ∈ p, s.pageState 126 = .free ∧ s.pageState 127 = .sealed) ∧
    (∀ s ∈ c, s.Takes .cancelPrint) ∧
    c.map (fun s => (s.argument 1, (s.slot 31).state, (s.slot 31).cancelled))
      = [(32, some .empty, false), (31, some .empty, false), (31, some .waiting, true)] :=
  ⟨takes_all (by decide +kernel), by decide +kernel, by decide +kernel, takes_all (by decide +kernel),
    by decide +kernel⟩

/-! ### The ends of linked calls -/

/-- A part asked to abort line 0. -/
def abortAsked (s : State) : State :=
  { s with memory := s.memory.write 0x7C0400 (leBytes 2 14 ++ [0x12, 0x34]), request := { s.request with post := 1 } }

/-- ABORT LINE of no line, and of lines that are IDLE, RINGING and RESTING. -/
theorem witness_UnansweredCallsEnd_refused :
    let at_ := fun x => abortAsked (calling x)
    let r := [asked 14 [4] [], at_ (idleLine .both), at_ (ringingLine 1 none), at_ (LineChannel.atRest toneLine)]
    (∀ s ∈ r, s.Takes .abortLine) ∧
    r.map (fun s => (s.argument 1, (s.line 0).state)) = [(4, .idle), (0, .idle), (0, .ringing), (0, .resting)] :=
  ⟨takes_all (by decide +kernel), by decide +kernel⟩

/-- A caller with a page in progress whose loop is lost, or was not there, or whose line is aborted; one in
CLEARING that is aborted; an answerer in each of these, and one at its fourth frame wait. -/
theorem witness_LinkedCallsEnd_lost :
    let k := callerLink .sending 4 0 (some sendPage)
    let s := callingOn k none none (sendHalf 0 none none)
    let u := s.setLine 0 { s.line 0 with settling := true }
    let a := answering (answererLink .receiving (some (receivedPage (.stored 0) none)) none) none
    let b := a.setLine 0 { a.line 0 with settling := true }
    let expired := answering { answererLink .offering none none with repeats := 3 } (some .frameWait)
    s.LinkedWith 0 caller k ∧ u.LinkedWith 0 caller k ∧ (abortAsked s).LinkedWith 0 caller k ∧
    s.linkEnder 0 (.loopLost 0) .lineDropped ∧ u.linkEnder 0 (.loopSettleExpiry 0 false) .lineDropped ∧
    (abortAsked s).linkEnder 0 .abortLine .aborted ∧ k.sending = some sendPage ∧ sendPage.page < 128 ∧
    2 ≤ s.references sendPage.page ∧ sendPage.referenced = true ∧ s.deskCap (s.meterOf 0).desk = 0 ∧
    (abortAsked (calling clearing)).Takes .abortLine ∧ (abortAsked (calling clearing)).argument 1 = 0 ∧
    a.linkEnder 0 (.loopLost 0) .lineDropped ∧ b.linkEnder 0 (.loopSettleExpiry 0 false) .lineDropped ∧
    (abortAsked a).linkEnder 0 .abortLine .aborted ∧
    expired.LinkedWith 0 answered { answererLink .offering none none with repeats := 3 } ∧
    expired.timerIs 0 .frameWait = true :=
  ⟨⟨⟨rfl, rfl⟩, rfl, rfl, rfl⟩, ⟨⟨rfl, rfl⟩, rfl, rfl, rfl⟩, ⟨⟨rfl, rfl⟩, rfl, rfl, rfl⟩,
    .inl ⟨rfl, rfl, rfl, .inl ⟨rfl, rfl, rfl⟩⟩, .inl ⟨rfl, rfl, rfl, .inr ⟨rfl, rfl⟩⟩,
    .inr ⟨rfl, rfl, takes_of (by decide +kernel), by decide +kernel⟩, rfl, by decide, by decide +kernel, rfl,
    by decide +kernel, takes_of (by decide +kernel), by decide +kernel,
    .inl ⟨rfl, rfl, rfl, .inl ⟨rfl, rfl, rfl⟩⟩, .inl ⟨rfl, rfl, rfl, .inr ⟨rfl, rfl⟩⟩,
    .inr ⟨rfl, rfl, takes_of (by decide +kernel), by decide +kernel⟩, ⟨⟨rfl, rfl⟩, rfl, rfl, rfl⟩, rfl⟩

/-- A caller in CLEARING with outcome PARTIAL, whose destination takes 255 pages confirmed and rate class 4. -/
theorem witness_LinkedCallsEnd_confirmed :
    let c := { caller with outcome := some .partly }
    let k := { callerLink .awaitVerdict 4 3 none with confirmed := 255 }
    let s := calling { aLine .clearing c (some .farewell) (some k) with offHook := true }
    let d := s.destination facts.job facts.destination
    s.Quiet ∧ (s.line 0).state = .clearing ∧ (s.line 0).call = some c ∧ c.out = some facts ∧
    c.outcome = some .partly ∧ s.timerIs 0 .farewell = true ∧ (s.line 0).link = some k ∧ (s.meterOf 0).desk < 32 ∧
    s.deskCap (s.meterOf 0).desk = 0 ∧ facts.job < 16 ∧ facts.destination < 48 ∧
    (1 < s.jobDestinations facts.job ∧ 1 ≠ facts.destination ∧ (s.destination facts.job 1).state = .pending) ∧
    d.used + 1 < 10 ∧ d.confirmed + k.confirmed = 255 ∧ d.resume + k.confirmed = 255 ∧ k.rate = some 4 :=
  ⟨⟨rfl, rfl⟩, rfl, rfl, rfl, rfl, rfl, rfl, by decide +kernel, by decide +kernel, by decide, by decide,
    by decide +kernel, by decide +kernel, by decide +kernel, by decide +kernel, rfl⟩

/-- A caller at its fourth frame wait, its page unjudged: one page confirmed of a list of two, and of a list of one. -/
theorem witness_CallersChooseAndCheck_expired :
    let k := { callerLink .awaitVerdict 4 3 (some { sendPage with index := 1 }) with confirmed := 1 }
    let one := callingOn k (some .frameWait) none (sendHalf 2 none none)
    let two := { one with
      memory := one.memory.write 0x7CF000 (leBytes 4 (15 * 64 + 1024 + 16384 + 2 * 2 ^ 20 + 2 * 2 ^ 26)) }
    one.LinkedWith 0 caller k ∧ two.LinkedWith 0 caller k ∧ one.timerIs 0 .frameWait = true ∧
    two.timerIs 0 .frameWait = true ∧ 3 ≤ k.repeats ∧ 1 ≤ k.confirmed ∧ sendPage.page < 128 ∧
    2 ≤ one.references sendPage.page ∧ 2 ≤ two.references sendPage.page ∧ (two.line 0).pump.sending = none ∧
    facts.resume + k.confirmed + 1 = two.jobPageCount facts.job ∧
    facts.resume + k.confirmed = one.jobPageCount facts.job ∧ one.deskCap (one.meterOf 0).desk = 0 ∧
    (one.meterOf 0).desk < 32 ∧ facts.number.length = 24 ∧
    (1 < one.jobDestinations facts.job ∧ (one.destination facts.job 1).state = .pending) :=
  ⟨⟨⟨rfl, rfl⟩, rfl, rfl, rfl⟩, ⟨⟨rfl, rfl⟩, rfl, rfl, rfl⟩, rfl, rfl, by decide, by decide, by decide,
    by decide +kernel, by decide +kernel, rfl, by decide +kernel, by decide +kernel, by decide +kernel,
    by decide +kernel, by decide, by decide +kernel⟩

/-- A RECEIVE page takes the last Leaf of the Free Leaf Stack. -/
theorem witness_LineGrantsCodeOneLine_leaf :
    let s := { receives (waitingPage (.stored 0)) [] with memory := region [(0x3000, [1, 2]), (0xD000, [9, 0])] }
    let t := { s with store := { s.store with depth := 1, low := true } }
    t.engineChoice = some (1, .ln 0) ∧ t.lnReceiveWork 0 = true ∧ t.path.hold = false ∧
    t.Grants 0 ((EncodeFrame.start 0).code 0).bits.length := by
  refine ⟨by decide +kernel, by decide +kernel, rfl, ?_⟩
  rw [white_line_bits]
  exact ⟨by decide +kernel, by decide +kernel, by decide +kernel, rfl, by decide +kernel, by decide +kernel,
    by decide +kernel, by decide +kernel⟩

end Sys2Proof.Tests
end

section
/-! PROOFS. Length Words and the check (Sections 4.1 and 4.4, rules R59 and R68): the bits of a
number, the reading of a Length Word, and the check register over a Parcel's or frame's bytes. -/

namespace Sys2Proof.Machine

/-! ### The bits of a number -/

theorem numberBits_eq_map (n v : Nat) :
    numberBits (n + 1) v = (List.range (n + 1)).map (fun i => v.testBit (n - i)) := by
  induction n with
  | zero => rfl
  | succ n ih =>
    rw [numberBits, ih, List.range_succ_eq_map (n := n + 1), List.map_cons, List.map_map]
    simp [Function.comp_def]

@[simp] theorem numberBits_length (k v : Nat) : (numberBits k v).length = k := by
  induction k with
  | zero => rfl
  | succ k ih => simp [numberBits, ih]

/-- The last bit of a number is its parity, the bits before it those of its half. -/
theorem numberBits_succ_last (k v : Nat) :
    numberBits (k + 1) v = numberBits k (v / 2) ++ [v.testBit 0] := by
  induction k with
  | zero => rfl
  | succ k ih => rw [numberBits, ih, numberBits, Nat.testBit_succ, List.cons_append]

/-- Bits gathered most significant first spell the number whose bits they are. -/
theorem numberBits_foldl (bits : List Bool) :
    numberBits bits.length (bits.foldl (fun acc x => 2 * acc + x.toNat) 0) = bits := by
  induction bits using List.reverseRecOn with
  | nil => rfl
  | append_singleton bits b ih =>
    have half (x : Nat) : (2 * x + b.toNat) / 2 = x := by
      cases b
      · simp
      · rw [Bool.toNat_true]; omega
    have parity (x : Nat) : (2 * x + b.toNat).testBit 0 = b := by cases b <;> simp
    rw [List.length_append, List.length_singleton, numberBits_succ_last, List.foldl_concat, half,
      parity, ih]

/-! ### Length Words (R59) -/

theorem lengthWord_length (r : Nat) : (lengthWord r).length = 2 * Nat.log2 (r + 1) + 1 := by
  simp [lengthWord]; omega

/-- Zeros counted up to a 1 within the fuel. -/
theorem countZeros_of_one {get : BitSource} {n fuel k m : Nat} (hfuel : n < fuel)
    (zeros : ∀ i, i < n → get (k + i) = some false) (one : get (k + n) = some true) :
    countZeros get fuel k m = some (m + n, k + n + 1) := by
  induction n generalizing fuel k m with
  | zero =>
    obtain ⟨fuel, rfl⟩ := Nat.exists_eq_succ_of_ne_zero (Nat.ne_zero_of_lt hfuel)
    rw [Nat.add_zero] at one
    simp [countZeros, one]
  | succ n ih =>
    obtain ⟨fuel, rfl⟩ := Nat.exists_eq_succ_of_ne_zero (Nat.ne_zero_of_lt hfuel)
    have first : get k = some false := zeros 0 (by omega)
    have rest := ih (fuel := fuel) (k := k + 1) (m := m + 1) (by omega)
      (fun i hi => by rw [Nat.add_right_comm]; exact zeros (i + 1) (by omega))
      (by rw [Nat.add_right_comm]; exact one)
    simp only [countZeros, first, rest]
    rw [Nat.add_right_comm m, Nat.add_right_comm k]
    rfl

/-- As many zeros as the fuel allows are no Length Word. -/
theorem countZeros_of_zeros {get : BitSource} {fuel k m : Nat}
    (zeros : ∀ i, i < fuel → get (k + i) = some false) : countZeros get fuel k m = none := by
  induction fuel generalizing k m with
  | zero => rfl
  | succ fuel ih =>
    have first : get k = some false := zeros 0 (by omega)
    simp only [countZeros, first]
    exact ih fun i hi => by rw [Nat.add_right_comm]; exact zeros (i + 1) (by omega)

/-- Reading goes on from the high part of a number through its low n bits to the number. -/
theorem readNumber_of_bits {get : BitSource} {n k v : Nat}
    (bits : ∀ i, i < n → get (k + i) = some (v.testBit (n - 1 - i))) :
    readNumber get n k (v / 2 ^ n) = some v := by
  induction n generalizing k with
  | zero => simp [readNumber]
  | succ n ih =>
    have first : get k = some (v.testBit n) := bits 0 (by omega)
    have step : 2 * (v / 2 ^ (n + 1)) + (v.testBit n).toNat = v / 2 ^ n := by
      rw [Nat.toNat_testBit, pow_succ, ← Nat.div_div_eq_div_mul, Nat.div_add_mod]
    simp only [readNumber, first, step]
    refine ih fun i hi => ?_
    have next := bits (i + 1) (by omega)
    rwa [show k + (i + 1) = k + 1 + i by omega, show n + 1 - 1 - (i + 1) = n - 1 - i by omega]
      at next

/-- Zeros, a 1 and as many bits after it are read as the number they spell. -/
theorem readLengthWord_of_bits {get : BitSource} {n v k : Nat} (hn : n ≤ 10) (low : 2 ^ n ≤ v)
    (high : v < 2 ^ (n + 1)) (zeros : ∀ i, i < n → get (k + i) = some false)
    (bits : ∀ i, i ≤ n → get (k + n + i) = some (v.testBit (n - i))) :
    readLengthWord get k = some (v - 1, k + 2 * n + 1) := by
  have top : v / 2 ^ n = 1 := Nat.div_eq_of_lt_le (by omega) (by rw [pow_succ] at high; omega)
  have one : get (k + n) = some true := by
    rw [← Nat.add_zero (k + n), bits 0 (by omega), Nat.testBit_eq_decide_div_mod_eq]
    simp [top]
  have counted := countZeros_of_one (m := 0) (show n < 11 by omega) zeros one
  have number : readNumber get n (k + n + 1) (v / 2 ^ n) = some v := by
    refine readNumber_of_bits fun i hi => ?_
    rw [show k + n + 1 + i = k + n + (i + 1) by omega, bits (i + 1) (by omega),
      show n - (i + 1) = n - 1 - i by omega]
  rw [top] at number
  simp only [readLengthWord, counted, Nat.zero_add, number]
  congr 2; omega

/-- Settles O50: the word by the logarithm of r + 1, its reading by the count of zeros and the
number read after them. -/
theorem lengthWordsNameTheirRuns : Obligations.LengthWordsNameTheirRuns := by
  refine ⟨fun r hr => ⟨Nat.log2 (r + 1), ?_, Nat.log2_self_le (by omega), Nat.lt_log2_self,
    lengthWord_length r, ?_⟩, fun n v k get hn low high zeros bits =>
      readLengthWord_of_bits hn low high zeros bits, fun k get zeros => ?_⟩
  · exact Nat.le_of_lt_succ ((Nat.log2_lt (by omega)).2 (by omega))
  · rw [lengthWord, numberBits_eq_map]
  · rw [readLengthWord, countZeros_of_zeros zeros]

/-! ### The check (R68) -/

/-- A byte's bits are those of its number. -/
theorem byteBits_ofNat (v : Nat) : byteBits (BitVec.ofNat 8 v) = numberBits 8 v := by
  simp only [byteBits, numberBits, BitVec.getLsbD_ofNat, Nat.reduceLT, decide_true, Bool.true_and]

theorem byteBits_eq_map (b : Byte) : byteBits b = (List.range 8).map b.getMsbD := by
  simp [byteBits, BitVec.getMsbD, List.range_succ]

/-- The first eight bits and the padding are the byte's bits. -/
theorem byteBits_byteOfBits (bits : List Bool) :
    byteBits (byteOfBits bits) = bits.take 8 ++ List.replicate (8 - bits.length) false := by
  have whole : (bits.take 8 ++ List.replicate (8 - bits.length) false).length = 8 := by simp; omega
  have spelled := numberBits_foldl (bits.take 8 ++ List.replicate (8 - bits.length) false)
  rw [whole] at spelled
  rw [byteOfBits, byteBits_ofNat, spelled]

@[simp] theorem bitBytes_length (n : Nat) (bits : List Bool) : (bitBytes n bits).length = n := by
  induction n generalizing bits with
  | zero => rfl
  | succ n ih => simp [bitBytes, ih]

/-- Bytes enough for the bits hold them, and zeros after them. -/
theorem flatMap_byteBits_bitBytes {n : Nat} {bits : List Bool} (fits : bits.length ≤ 8 * n) :
    (bitBytes n bits).flatMap byteBits = bits ++ List.replicate (8 * n - bits.length) false := by
  induction n generalizing bits with
  | zero => simp [bitBytes, List.eq_nil_of_length_eq_zero (Nat.le_zero.1 fits)]
  | succ n ih =>
    have rest := ih (bits := bits.drop 8) (by simp; omega)
    rw [bitBytes, List.flatMap_cons, byteBits_byteOfBits, rest, List.length_drop]
    rcases Nat.le_total bits.length 8 with short | long
    · rw [List.take_of_length_le short, List.drop_of_length_le short, List.nil_append,
        List.append_assoc, List.replicate_append_replicate]
      congr 2; omega
    · rw [Nat.sub_eq_zero_of_le long, List.replicate_zero, List.append_nil, ← List.append_assoc,
        List.take_append_drop]
      congr 2; omega

/-- The register after a run of bits, from all ones. -/
def checkRegister (bits : List Bool) : BitVec 16 := bits.foldl crcBit 0xFFFF

theorem check_eq_register (bytes : List Byte) :
    check bytes = checkRegister (bytes.flatMap byteBits) := rfl

/-- One more bit shifts the register, and a difference from the top bit adds the generator. -/
theorem checkRegister_append_bit (bits : List Bool) (b : Bool) :
    checkRegister (bits ++ [b]) = (checkRegister bits <<< 1) ^^^
      (if ((checkRegister bits).getLsbD 15 != b) = true then 0x1021 else 0) := by
  rw [checkRegister, List.foldl_concat, crcBit, BitVec.msb_eq_getLsbD_last, ← checkRegister]
  split <;> simp

theorem beBytes_two (v : Nat) : beBytes 2 v = [BitVec.ofNat 8 (v / 256), BitVec.ofNat 8 v] := rfl

/-- The check bytes are the register's high and low byte. -/
theorem checkBytes_eq (bytes : List Byte) :
    checkBytes bytes = [BitVec.ofNat 8 ((check bytes).toNat / 256),
      BitVec.ofNat 8 ((check bytes).toNat % 256)] := by
  have low : BitVec.ofNat 8 ((check bytes).toNat % 256) = BitVec.ofNat 8 (check bytes).toNat :=
    BitVec.eq_of_toNat_eq (by simp)
  rw [checkBytes, beBytes_two, low]

/-- Settles O52: the register is the model's own, the bits of a packed payload are the Parcel's with
zeros after them, and both bodies end in their check bytes. -/
theorem parcelsAndFramesCarryTheCheck : Obligations.ParcelsAndFramesCarryTheCheck := by
  refine ⟨checkRegister, rfl, checkRegister_append_bit, ?_⟩
  have stream : (fun b : Byte => (List.range 8).map b.getMsbD) = byteBits :=
    funext fun b => (byteBits_eq_map b).symm
  simp only [stream, ← check_eq_register, ← checkBytes_eq]
  refine ⟨fun p seq => ⟨packBits p.bits, bitBytes_length _ _, ?_, rfl⟩, fun f => rfl⟩
  rw [packBits, bitBytes_length]
  exact flatMap_byteBits_bitBytes (by omega)

end Sys2Proof.Machine
end

section
/-! PROOFS. RASTER Apertures (Section 6.3, rule R100): a DATA cycle that passes the checks of a bound
entry, and a write into a view. -/

namespace Sys2Proof.Machine

/-! ### Cycles of a bound entry -/

/-- A cycle that R6 lets pass at a bound entry meets no bus error. -/
theorem State.checks_aperture_bound {s : State} {e : Fin 8} {c : Cycle} (hl : c.locked = false)
    (hu : c.user = true → (s.aperture e).userAllowed = true) (hb : (s.aperture e).binding ≠ none) :
    s.checks c (.aperture e) = none := by
  have allowed : (c.user && !(s.aperture e).userAllowed) = false := by
    cases user : c.user with
    | false => rfl
    | true => simp [hu user]
  have bound : (s.aperture e).binding.isNone = false :=
    Option.isNone_eq_false_iff.2 (Option.isSome_iff_ne_none.2 hb)
  simp [State.checks, hl, allowed, bound]

/-- A DATA cycle presented at a free port that passes the checks of a bound entry is carried out under
that entry (R2, R6). -/
theorem State.present_aperture_bound {s : State} {e : Fin 8} {kind : ApertureKind} {c : Cycle}
    {stretched : Bool} {a : Attr} (h : s.PortFree) (hp : s.Passes e kind c.addr a)
    (hb : (s.aperture e).binding ≠ none) (data : (c.program && !c.write) = false)
    (hu : c.user = a.user) (hl : c.locked = a.locked) :
    s.present c stretched = (s.carryOut c (.aperture e) stretched).endHold := by
  have unlocked : c.locked = false := hl.trans hp.locked
  have passed : s.checks c (.aperture e) = none :=
    State.checks_aperture_bound unlocked (fun user => hp.user (hu ▸ user)) hb
  rw [State.present_free h unlocked, State.classify_aperture data hp.governs, passed]

/-! ### A write into a view -/

/-- The transform of a RASTER entry ends a write and does nothing else (R100). -/
theorem State.carryOut_raster_write {s : State} {e : Fin 8} {c : Cycle} {stretched : Bool}
    (hk : (s.aperture e).kind = .raster) (hw : c.write = true) :
    s.carryOut c (.aperture e) stretched = { s with path := s.path.ended (.done none) } := by
  simp [State.carryOut, hk, State.rasterCycle, hw, State.endCycle, PathUnit.ended]

/-- Settles O31: the write passes the checks and is carried out under its entry, whose transform ends
it; at a free port nothing is held back that its end could release. -/
theorem rasterWriteChangesNothing : Obligations.RasterWriteChangesNothing := by
  intro s e addr data be program a free passes bound
  have nothingHeld : ({ s with path := s.path.ended (.done none) } : State).endHold
      = { s with path := s.path.ended (.done none) } := State.endHold_free free.hold
  have presented := State.present_aperture_bound (stretched := a.stretched)
    (c := writeCycle addr.toNat data be program a) free passes bound (Bool.and_false _) rfl rfl
  rw [State.carryOut_raster_write passes.kind rfl, nothingHeld] at presented
  exact congrArg Host.Outcome.next presented

end Sys2Proof.Machine
end
